-- ==== Sys2Proof/Word.lean ====
section
/-! DEFINITION. The word types of TGA-RLEX: the byte of SRC and DST (spec/20_memory.md R29), the 32-bit
register word of REG (R33), and the RGBA quad the resolver makes (spec/41_pixel_resolver.md, opening; R35).
Counters and offsets are natural numbers, as spec/00_scope.md R7 asks: no computation wraps. -/

namespace Sys2Proof

/-- A byte of SRC, of DST or of the RAW buffer (R29). -/
abbrev Byte := BitVec 8

/-- A 32-bit register word of the REG space (R12, R33). -/
abbrev Word := BitVec 32

/-- An RGBA quad: four bytes, R, G, B and A, each from 0 to 255 (41_pixel_resolver.md, opening). -/
structure Rgba where
  r : Byte
  g : Byte
  b : Byte
  a : Byte
  deriving DecidableEq, Repr

end Sys2Proof
end

