-- ==== Sys2Proof/Config.lean ====
section
/-! DEFINITION. What an implementation fixes (the two capacities, spec/00_scope.md R6), the error kinds a job
can end with (spec/60_exceptions.md R85), and the FREE VALUES: constants with no body, for what the spec
leaves open, about which nothing can be proved. -/

namespace Sys2Proof

/-- The seven error kinds of R85, in the order of their codes. -/
inductive JobError where
  | unsupportedColorMapType   -- code 1, R86
  | unsupportedPixelDepth     -- code 2, R87
  | truncatedStream           -- code 3, R88
  | unsupportedImageType      -- code 4, R89
  | shortRawData              -- code 5, R90
  | paletteRange              -- code 6, R91
  | configRange               -- code 7, R92
  deriving DecidableEq, Repr

/-- The two parameters of R6, in bytes: the largest SRC_LEN and the largest W × H × 4 the block accepts. -/
structure Capacities where
  src : Nat
  dst : Nat
  deriving DecidableEq, Repr

/-- The ranges R6 gives the two parameters. -/
abbrev Capacities.legal (c : Capacities) : Prop :=
  18 ≤ c.src ∧ c.src ≤ 2 ^ 32 - 1 ∧ c.dst ≤ 65535 * 65535 * 4

/-- DESIGN CHOICE (unsafe; assumption 1): the capacities `State.reset` carries, the largest R6 admits.
The spec leaves both OPEN (D26): every definition takes them from the state, `State.resetWith` takes any,
and no statement rests on this value. -/
def Config.largestCapacities : Capacities := { src := 2 ^ 32 - 1, dst := 65535 * 65535 * 4 }

/-- FREE VALUE (assumption 2): the `n`-th byte the machine draws under no law, for a host read whose
value the spec leaves open (R32, R99, U2). -/
opaque Config.freeByte : Nat → Byte

/-- FREE VALUE (assumption 3): how a job ends when the host wrote SRC while it ran: `none` is DONE, `some e`
is ERROR with any of the seven codes (R44, U8). -/
opaque Config.freeOutcome : Nat → Option JobError

/-- FREE VALUE (assumption 4): what the SRC byte at an offset holds when the host has written nothing there
since power-on (R28: the contents of SRC belong to the host). A read has no side effect (R30), so it is one
value per offset. -/
opaque Config.unwrittenSrc : Nat → Byte

end Sys2Proof
end

