-- ==== Sys2Proof/Machine/State.lean ====
section
/-! DEFINITION. The state of TGA-RLEX as plain data (spec/10_state.md), the reasons a step can stop, and the
state after reset (spec/70_reset_and_hazards.md R98). -/

namespace Sys2Proof.Machine

/-- STATUS.STATE, bits 1:0 of STATUS (R14). -/
inductive EngineState where
  | idle    -- 0: no job has run since reset
  | busy    -- 1: a job is running
  | done    -- 2: the last job completed
  | error   -- 3: the last job aborted
  deriving DecidableEq, Repr

/-- Where the running job stands in the sequence of R78. -/
inductive Phase where
  | noJob
  | checkConfig
  | derive
  | rle
  | loadRaw
  | resolve
  | complete
  deriving DecidableEq, Repr

/-- The per-job quantities of R80, computed once after CheckConfig succeeds, and the output size of R20, which is
DST's size for the job (R29) from START on. -/
structure JobParams where
  /-- P, bytes per image unit (R19). -/
  unitSize : Nat
  /-- E, bytes per palette entry (R22). -/
  entrySize : Nat
  /-- N = W × H × P, the expected output length of the decoder (R20). -/
  expected : Nat
  /-- DATA_START (R38). -/
  dataStart : Nat
  /-- PALETTE_BASE (R39). -/
  paletteBase : Nat
  /-- W × H × 4 of the job START began: the output size (R20), DST's size (R29). -/
  outLen : Nat
  /-- FSEL_IMG (R51). -/
  fselImg : Byte
  /-- FSEL_ENT (R51). -/
  fselEnt : Byte
  /-- ALPHA_OK (R23). -/
  alphaOk : Bool
  deriving DecidableEq, Repr

/-- The width of a host access to REG (R33). -/
inductive AccessSize where
  | byte
  | half
  | word
  deriving DecidableEq, Repr

/-- What the host does, or lets happen, next (R29, R33, R77, R99, R100). -/
inductive HostEvent where
  /-- A REG write. -/
  | regWrite (off : Nat) (size : AccessSize) (v : Word)
  /-- A REG read. -/
  | regRead (off : Nat) (size : AccessSize)
  /-- A write of one SRC byte. -/
  | srcWrite (a : Nat) (b : Byte)
  /-- A read of one SRC byte. -/
  | srcRead (a : Nat)
  /-- A read of one DST byte. -/
  | dstRead (a : Nat)
  /-- The reset input (R98, R99). -/
  | reset
  /-- The host waits while the engine takes one step. -/
  | engineTurn
  /-- The host polls STATUS until STATE ∈ {DONE, ERROR} (R100 step 8): the engine runs while STATE is BUSY. -/
  | poll
  deriving DecidableEq, Repr

/-- A byte memory in canonical form: (offset, byte) pairs with strictly rising offsets. An unlisted offset
holds no value of the list's own (assumptions 4 and 6). -/
abbrev Memory := List Host.Cell

/-- Why the machine stops. Each of these is safe: the model stops where the spec says there is no such
address, or in a state that no run reaches. -/
inductive Fault where
  /-- A host access to a REG offset past 0x3C: the REG space is 64 bytes (R12, R29). Raised by the host port. Safe. -/
  | regNoSuchAddress (off : Nat)
  /-- A host access to SRC at an offset the block has no byte for: at most SRC_CAPACITY (R6, R29). Raised by the host
  port. Safe. -/
  | srcNoSuchAddress (a : Nat)
  /-- A host read of DST past its size: W × H × 4 bytes of the job, at most DST_CAPACITY (R29). Raised by the host port. Safe. -/
  | dstNoSuchAddress (a : Nat)
  /-- A resolver format was given a unit whose length is not the SIZE of its selector (R63 says `|u| = sel.SIZE`).
  Raised by the resolver meanings. No run reaches it. Safe. -/
  | unitLength (n : Nat)
  deriving DecidableEq, Repr

/-- What the model gives no meaning to. Safe: nothing is proved about a run that contains it. -/
inductive Refusal where
  /-- An instruction that has no meaning yet, by its mnemonic. Raised by exec's arms. Safe. -/
  | notModelled (mnemonic : String)
  /-- A REG access that is not an aligned 32-bit word: R33 says a model refuses it. Raised by the host port. Safe. -/
  | regAccessForm (off : Nat)
  deriving DecidableEq, Repr

/-- The state: the registers of R12, the SRC and DST spaces of R29, the internal state of R24 to R26, the
parameters of R6, and the model's own fields for the host and for free values. -/
structure State where
  /-- SRC_CAPACITY and DST_CAPACITY (R6): no step changes them. -/
  caps : Capacities
  /-- STATUS.STATE (R14). -/
  status : EngineState
  /-- STATUS.ERR (R15). -/
  err : BitVec 4
  /-- SRC_LEN, offset 0x08 (R17). -/
  srcLen : Word
  /-- DATA_END, offset 0x0C (R18). -/
  dataEnd : Word
  /-- DIM, offset 0x10 (R20). -/
  dim : Word
  /-- FORMAT, offset 0x14 (R19). -/
  format : Word
  /-- CMAP, offset 0x18 (R21). -/
  cmap : Word
  /-- CMAP2, offset 0x1C: bits 31:16 are reserved and not stored (R12, R22). -/
  cmap2 : BitVec 16
  /-- ATTR, offset 0x20: bits 31:9 are reserved and not stored (R12, R23). -/
  attr : BitVec 9
  /-- The SRC space (R29, R30). -/
  src : Memory
  /-- The DST bytes the last job has written (R31). -/
  dst : Memory
  /-- Where the running job stands (R78). -/
  phase : Phase
  /-- The per-job quantities (R80). -/
  job : JobParams
  /-- RAW, the bytes produced so far (R24). Its length is the decoder's `out` (R25). -/
  raw : List Byte
  /-- `rd`, the decoder's SRC offset (R25). -/
  rd : Nat
  /-- The destination row of the pixel being produced (R26). -/
  destRow : Nat
  /-- The column of the pixel being produced (R26). -/
  x : Nat
  /-- The unit latch (R26). -/
  unit : List Byte
  /-- The RGBA latch (R26). -/
  rgba : Rgba
  /-- MODEL'S OWN: what the host does next, in order (assumption 7). -/
  hostQueue : List HostEvent
  /-- MODEL'S OWN: the value the last host read returned (assumption 7). -/
  hostData : Word
  /-- MODEL'S OWN: the host wrote SRC while the last job ran (R44, assumption 3). -/
  srcDisturbed : Bool
  /-- MODEL'S OWN: how many free values have been drawn (assumption 2). -/
  draws : Nat
  deriving DecidableEq, Repr

/-- The internal per-job quantities after reset: R98 leaves them unspecified and says nothing reads them before
a START sets them. DESIGN CHOICE zero, assumption 8 (unsafe). -/
def JobParams.zero : JobParams :=
  { unitSize := 0, entrySize := 0, expected := 0, dataStart := 0, paletteBase := 0, outLen := 0,
    fselImg := 0, fselEnt := 0, alphaOk := false }

/-- The block after reset (R98), with any capacities (R6): STATE = IDLE, ERR = 0, every register 0, nothing in
SRC or DST, and the internal state at the values of assumption 8. -/
def State.resetWith (c : Capacities) : State :=
  { caps := c, status := .idle, err := 0, srcLen := 0, dataEnd := 0, dim := 0, format := 0, cmap := 0,
    cmap2 := 0, attr := 0, src := [], dst := [], phase := .noJob, job := JobParams.zero, raw := [], rd := 0,
    destRow := 0, x := 0, unit := [], rgba := { r := 0, g := 0, b := 0, a := 0 }, hostQueue := [],
    hostData := 0, srcDisturbed := false, draws := 0 }

/-- The machine right after reset. -/
def State.reset : State := State.resetWith Config.largestCapacities

end Sys2Proof.Machine
end

