-- ==== Sys2Proof/Machine/Flags.lean ====
section
/-! DEFINITION. What the host can observe of the engine. TGA-RLEX has no flags or condition codes other than
STATUS.STATE and STATUS.ERR (spec/10_state.md R27): their encodings (R14, R85) and the STATUS word (R12). -/

namespace Sys2Proof.Machine

/-- The value of STATUS.STATE (R14). -/
def EngineState.code : EngineState → BitVec 2
  | .idle => 0
  | .busy => 1
  | .done => 2
  | .error => 3

/-- The code of an error kind in STATUS.ERR (R85). -/
def errorCode : JobError → BitVec 4
  | .unsupportedColorMapType => 1
  | .unsupportedPixelDepth => 2
  | .truncatedStream => 3
  | .unsupportedImageType => 4
  | .shortRawData => 5
  | .paletteRange => 6
  | .configRange => 7

/-- The STATUS word: STATE in [1:0], ERR in [11:8], every other bit 0 (R12). -/
def State.statusWord (s : State) : Word :=
  0#20 ++ s.err ++ 0#6 ++ s.status.code

end Sys2Proof.Machine
end

