-- ==== Sys2Proof/Syntax.lean ====
section
/-! DEFINITION. The instructions of TGA-RLEX, one constructor per row of spec/opcode_table.json
(spec/00_scope.md R2): the RLE packets, the resolver formats and the host command. -/

namespace Sys2Proof

/-- The instruction set of R2. -/
inductive Instr where
  /-- RUN (R56): `count` copies of one unit. The unit's P bytes follow the control byte in SRC. -/
  | run (count : Nat)
  /-- RAW (R57): `count` literal units, which follow the control byte in SRC. -/
  | raw (count : Nat)
  /-- GRAY8 (R64), with the GRAY bit of its selector. -/
  | gray8 (gray : Bool)
  /-- GRAY16A (R65). -/
  | gray16a
  /-- HC15 (R66). -/
  | hc15
  /-- TC24 (R68), with the GRAY bit of its selector. -/
  | tc24 (gray : Bool)
  /-- TC32 (R69), with the GRAY bit of its selector. -/
  | tc32 (gray : Bool)
  /-- INDEX8 (R70), with the GRAY bit of its selector. -/
  | index8 (gray : Bool)
  /-- INDEX16 (R71), with the GRAY bit of its selector. -/
  | index16 (gray : Bool)
  /-- START (R77), with the whole value the host writes to CTRL (R53: bits 31:1 are ignored). -/
  | start (v : Word)
  deriving DecidableEq, Repr

end Sys2Proof
end

