-- ==== Sys2Proof/WellFormed.lean ====
section
/-! DEFINITION. Which instructions the encodings of spec/30_encoding.md admit, and the packet notation of
R54 (packets with their unit bytes, the two pseudo-instructions, and what an assembler refuses). -/

namespace Sys2Proof

/-- The instructions an encoding stands for: a packet's count is 1 to 128 (R48, R54), and a START is a CTRL
write whose bit 0 is set (R53). Every value of a selector's GRAY operand is admitted (R51). -/
def Instr.wellFormed : Instr → Bool
  | .run n => decide (1 ≤ n) && decide (n ≤ 128)
  | .raw n => decide (1 ≤ n) && decide (n ≤ 128)
  | .gray8 _ => true
  | .gray16a => true
  | .hc15 => true
  | .tc24 _ => true
  | .tc32 _ => true
  | .index8 _ => true
  | .index16 _ => true
  | .start v => v[0]

/-- A packet with its unit bytes, as R54 writes it: `RUN n, [u]` and `RAW n, [u1] … [un]`, each unit in
stored (SRC) order. -/
inductive Packet where
  | run (n : Nat) (unit : List Byte)
  | raw (n : Nat) (units : List (List Byte))
  deriving DecidableEq, Repr

/-- What an assembler accepts (R54): n from 1 to 128, exactly n units in a RAW packet, each unit P bytes. -/
def Packet.wellFormed (P : Nat) : Packet → Bool
  | .run n u => decide (1 ≤ n) && decide (n ≤ 128) && decide (u.length = P)
  | .raw n us => decide (1 ≤ n) && decide (n ≤ 128) && decide (us.length = n)
      && us.all (fun u => decide (u.length = P))

/-- The units a packet stands for, in order (R56, R57). -/
def Packet.units : Packet → List (List Byte)
  | .run n u => List.replicate n u
  | .raw _ us => us

/-- The two pseudo-instructions of R54. -/
inductive PseudoPacket where
  | fill (n : Nat) (unit : List Byte)
  | copy (units : List (List Byte))
  deriving DecidableEq, Repr

/-- The units a pseudo-instruction stands for (R54). -/
def PseudoPacket.units : PseudoPacket → List (List Byte)
  | .fill n u => List.replicate n u
  | .copy us => us

/-- What the pseudo-instructions admit (R54): n ≥ 1 units, each of P bytes. -/
def PseudoPacket.wellFormed (P : Nat) : PseudoPacket → Bool
  | .fill n u => decide (1 ≤ n) && decide (u.length = P)
  | .copy us => decide (1 ≤ us.length) && us.all (fun u => decide (u.length = P))

end Sys2Proof
end

