-- ==== Sys2Proof/Decode.lean ====
section
/-! DEFINITION. The decoders of spec/30_encoding.md and, after them, the encoders. TGA-RLEX decodes three kinds
of encoded object (30_encoding.md, opening): the RLE control byte, the pixel-format selector FSEL, and a host
write to CTRL. The machine knows which kind it holds from where it fetched it, never from its bits. -/

namespace Sys2Proof

/-- An encoded object, by its kind (30_encoding.md, opening). -/
inductive Encoded where
  | control (c : Byte)
  | fsel (f : Byte)
  | ctrlWrite (v : Word)
  deriving DecidableEq, Repr

/-- Why a decoder refuses its input. -/
inductive DecodeError where
  /-- An FSEL value that matches no row of R51: R52 calls it reserved. -/
  | reservedFsel (f : Byte)
  /-- A CTRL write with bit 0 clear: a no-operation, no START (R53). -/
  | notStart (v : Word)
  /-- No control byte is left in the byte stream (R55). -/
  | streamEnded
  /-- The packet's unit bytes run past the end of the byte stream (R49). -/
  | packetTruncated
  deriving DecidableEq, Repr

/-- R48: `count = C[6:0] + 1`, from 1 to 128, zero-extended. -/
def packetCount (c : Byte) : Nat := (c.extractLsb' 0 7).toNat + 1

/-- R47: C[7] selects RUN (1) or RAW (0). Every control byte is legal (R50), so this decoder is total. -/
def decodeControl (c : Byte) : Instr :=
  if c &&& 0x80 = 0x80 then .run (packetCount c) else .raw (packetCount c)

/-- The selector's GRAY bit, bit 3 (R51). -/
def fselGray (f : Byte) : Bool := f[3]

/-- The masks and matches of R51, row by row. A value that matches no row is reserved (R52). -/
def decodeFsel (f : Byte) : Except DecodeError Instr :=
  if f &&& 0xF7 = 0x01 then .ok (.gray8 (fselGray f))
  else if f &&& 0xFF = 0x0A then .ok .gray16a
  else if f &&& 0xFF = 0x02 then .ok .hc15
  else if f &&& 0xF7 = 0x03 then .ok (.tc24 (fselGray f))
  else if f &&& 0xF7 = 0x04 then .ok (.tc32 (fselGray f))
  else if f &&& 0xF7 = 0x11 then .ok (.index8 (fselGray f))
  else if f &&& 0xF7 = 0x12 then .ok (.index16 (fselGray f))
  else .error (.reservedFsel f)

/-- R53: a CTRL write is a START exactly when v[0] = 1 (mask and match 0x00000001). -/
def decodeStart (v : Word) : Except DecodeError Instr :=
  if v &&& 1 = 1 then .ok (.start v) else .error (.notStart v)

/-- The decoder of an encoded object of any kind. -/
def decode : Encoded → Except DecodeError Instr
  | .control c => .ok (decodeControl c)
  | .fsel f => decodeFsel f
  | .ctrlWrite v => decodeStart v

/-- The n-th unit of P bytes of a byte list. -/
def unitAt (P : Nat) (bs : List Byte) (n : Nat) : List Byte := (bs.drop (n * P)).take P

/-- The first `n` units of P bytes of a byte list, in order. -/
def splitUnits (P n : Nat) (bs : List Byte) : List (List Byte) := (List.range n).map (unitAt P bs)

/-- One packet with its unit bytes from the front of a byte stream, and the bytes after it. Its length
follows from the control byte and P alone: 1 + P for RUN, 1 + count × P for RAW (R49). -/
def decodePacket (P : Nat) : List Byte → Except DecodeError (Packet × List Byte)
  | [] => .error .streamEnded
  | c :: rest =>
    if c &&& 0x80 = 0x80 then
      if rest.length < P then .error .packetTruncated
      else .ok (.run (packetCount c) (rest.take P), rest.drop P)
    else
      if rest.length < packetCount c * P then .error .packetTruncated
      else .ok (.raw (packetCount c) (splitUnits P (packetCount c) rest), rest.drop (packetCount c * P))

/-- The instruction that the bits `w` of an opcode-table row of `nbits` bits stand for. A 32-bit row is a CTRL
write. The table's 8-bit rows are of two kinds whose values overlap (every byte is a control byte, R50; a few
are also a selector, R51), so here, and only here, the more specific match is taken: a byte that matches a row
of R51 is a selector, every other byte a control byte. DESIGN CHOICE, assumption 5: the machine itself is never
in doubt, since it takes control bytes from SRC and selectors from FSEL_IMG and FSEL_ENT. -/
def decodeTableWord (nbits w : Nat) : Option Instr :=
  if 2 ^ nbits ≤ w then none
  else if nbits = 32 then (decodeStart (BitVec.ofNat 32 w)).toOption
  else if nbits = 8 then
    match decodeFsel (BitVec.ofNat 8 w) with
    | .ok i => some i
    | .error _ => some (decodeControl (BitVec.ofNat 8 w))
  else none

/-- The selector word of R51: bits 7:5 reserved 0, bit 4 IDX, bit 3 GRAY, bits 2:0 SIZE. -/
def fselWord (idx gray : Bool) (size : Nat) : Byte :=
  0#3 ++ BitVec.ofBool idx ++ BitVec.ofBool gray ++ BitVec.ofNat 3 size

/-- The control byte of a packet (R54): `0x80 | (n − 1)` for RUN, `n − 1` for RAW. -/
def controlByte (isRun : Bool) (n : Nat) : Byte :=
  (if isRun then 0x80 else 0x00) ||| BitVec.ofNat 8 (n - 1)

/-- The word of a well-formed instruction (R47, R48, R51, R53). -/
def encode : Instr → Encoded
  | .run n => .control (controlByte true n)
  | .raw n => .control (controlByte false n)
  | .gray8 g => .fsel (fselWord false g 1)
  | .gray16a => .fsel (fselWord false true 2)
  | .hc15 => .fsel (fselWord false false 2)
  | .tc24 g => .fsel (fselWord false g 3)
  | .tc32 g => .fsel (fselWord false g 4)
  | .index8 g => .fsel (fselWord true g 1)
  | .index16 g => .fsel (fselWord true g 2)
  | .start v => .ctrlWrite v

/-- The bytes of a packet (R54). -/
def assemblePacket : Packet → List Byte
  | .run n u => controlByte true n :: u
  | .raw n us => controlByte false n :: us.flatten

/-- Why an assembler rejects a packet (R54). -/
inductive AssembleError where
  /-- n = 0 or n > 128 in a RUN or RAW. -/
  | countOutOfRange (n : Nat)
  /-- A RAW packet whose units are not exactly n. -/
  | unitCount (n : Nat)
  /-- A unit whose length is not P. -/
  | unitLength
  deriving DecidableEq, Repr

/-- The assembler of R54: it rejects n = 0 and n > 128, and a unit whose length is not P. -/
def assemble (P : Nat) : Packet → Except AssembleError (List Byte)
  | .run n u =>
    if n = 0 ∨ 128 < n then .error (.countOutOfRange n)
    else if u.length ≠ P then .error .unitLength
    else .ok (assemblePacket (.run n u))
  | .raw n us =>
    if n = 0 ∨ 128 < n then .error (.countOutOfRange n)
    else if us.length ≠ n then .error (.unitCount n)
    else if us.all (fun u => decide (u.length = P)) then .ok (assemblePacket (.raw n us))
    else .error .unitLength

/-- The fixed expansions of the two pseudo-instructions (R54): packets of 128 first, then one packet for the
n mod 128 units that are left, when there are any. -/
def expandPseudo : PseudoPacket → List Packet
  | .fill n u =>
    List.replicate (n / 128) (.run 128 u) ++ (if n % 128 = 0 then [] else [.run (n % 128) u])
  | .copy us =>
    (List.range (us.length / 128)).map (fun k => .raw 128 ((us.drop (128 * k)).take 128))
      ++ (if us.length % 128 = 0 then []
          else [.raw (us.length % 128) (us.drop (128 * (us.length / 128)))])

/-- The bytes of a list of packets, one after another. -/
def assemblePackets (ps : List Packet) : List Byte := (ps.map assemblePacket).flatten

end Sys2Proof
end

