-- ==== Sys2Proof/Machine/Operands.lean ====
section
/-! DEFINITION. The operands: the fields of the configuration registers and the quantities derived from them
(spec/10_state.md R19 to R23, spec/20_memory.md R38 and R39), the little-endian assembly of R9, and the reads
and writes of byte memories. -/

namespace Sys2Proof.Machine

/-- R9: `LE16(b0, b1) = b0 + 256 × b1`. -/
def le16 (b0 b1 : Byte) : Nat := b0.toNat + 256 * b1.toNat

/-- R9: `LE32(b0..b3)`. -/
def le32 (b0 b1 b2 b3 : Byte) : Nat :=
  b0.toNat + 2 ^ 8 * b1.toNat + 2 ^ 16 * b2.toNat + 2 ^ 24 * b3.toNat

/-- R19: `bytes(b) = (b + 7) div 8`, the bytes that hold a depth of b bits. -/
def bytesOfBits (b : Nat) : Nat := (b + 7) / 8

/-! ### Byte memories -/

/-- The byte listed at an offset, if any. -/
def Memory.read : Memory → Nat → Option Byte
  | [], _ => none
  | (k, v) :: m, a => if k = a then some v else Memory.read m a

/-- Storing one byte, keeping the offsets strictly rising. -/
def Memory.write : Memory → Nat → Byte → Memory
  | [], a, b => [(a, b)]
  | (k, v) :: m, a, b =>
    if a < k then (a, b) :: (k, v) :: m
    else if a = k then (a, b) :: m
    else (k, v) :: Memory.write m a b

/-- Storing a list of bytes at consecutive offsets (R9, `MemWrite`). -/
def Memory.writeBytes : Memory → Nat → List Byte → Memory
  | m, _, [] => m
  | m, a, b :: bs => Memory.writeBytes (Memory.write m a b) (a + 1) bs

/-- The canonical form: offsets strictly rising. No entry can equal what an unlisted offset reads as, since the
list itself gives an unlisted offset no value. -/
abbrev Memory.wf (m : Memory) : Prop := m.Pairwise (fun c d => c.1 < d.1)

/-- `SRC[a]` (R9): the byte the host stored there, or what the offset has held since power-on (assumption 4). -/
def State.srcByte (s : State) (a : Nat) : Byte := (Memory.read s.src a).getD (Config.unwrittenSrc a)

/-- `MemRead(SRC, a, n)` (R9). -/
def State.srcBytes (s : State) (a n : Nat) : List Byte := (List.range n).map (fun j => s.srcByte (a + j))

/-! ### Register fields (R12) -/

/-- WIDTH, DIM[15:0]: W (R20). -/
def State.width (s : State) : Nat := (s.dim.extractLsb' 0 16).toNat

/-- HEIGHT, DIM[31:16]: H (R20). -/
def State.height (s : State) : Nat := (s.dim.extractLsb' 16 16).toNat

/-- IMAGE_TYPE, FORMAT[7:0] (R19). -/
def State.imageType (s : State) : Nat := (s.format.extractLsb' 0 8).toNat

/-- COLOR_MAP_TYPE, FORMAT[15:8] (R19). -/
def State.colorMapType (s : State) : Nat := (s.format.extractLsb' 8 8).toNat

/-- PIXEL_DEPTH, FORMAT[23:16] (R19). -/
def State.pixelDepth (s : State) : Nat := (s.format.extractLsb' 16 8).toNat

/-- DESCRIPTOR, FORMAT[31:24] (R19). -/
def State.descriptor (s : State) : Byte := s.format.extractLsb' 24 8

/-- CM_ORIGIN, CMAP[15:0] (R21). -/
def State.cmOrigin (s : State) : Nat := (s.cmap.extractLsb' 0 16).toNat

/-- CM_LENGTH, CMAP[31:16] (R21). -/
def State.cmLength (s : State) : Nat := (s.cmap.extractLsb' 16 16).toNat

/-- CM_ENTRY_DEPTH, CMAP2[7:0] (R22). -/
def State.cmEntryDepth (s : State) : Nat := (s.cmap2.extractLsb' 0 8).toNat

/-- ID_LENGTH, CMAP2[15:8] (R22). -/
def State.idLength (s : State) : Nat := (s.cmap2.extractLsb' 8 8).toNat

/-- ATTR_TYPE, ATTR[7:0] (R23). -/
def State.attrType (s : State) : Nat := (s.attr.extractLsb' 0 8).toNat

/-- ATTR_PRESENT, ATTR[8] (R23). -/
def State.attrPresent (s : State) : Bool := s.attr[8]

/-! ### Derived quantities -/

/-- IS_RLE (R19). -/
def State.isRle (s : State) : Bool := decide (8 < s.imageType)

/-- IS_GRAY (R19). -/
def State.isGray (s : State) : Bool := decide (s.imageType = 3) || decide (s.imageType = 11)

/-- INDEXED (R19). -/
def State.indexed (s : State) : Bool := decide (s.colorMapType = 1)

/-- TTB, DESCRIPTOR[5] (R19). -/
def State.topToBottom (s : State) : Bool := s.descriptor[5]

/-- ATTR_ABSENT (R23). -/
def State.attrAbsent (s : State) : Bool := !s.attrPresent || decide (4 < s.attrType)

/-- ALPHA_OK (R23). -/
def State.alphaHonored (s : State) : Bool :=
  s.attrAbsent || decide (s.attrType = 3) || decide (s.attrType = 4)

/-- DATA_START (R38): `18 + ID_LENGTH + (INDEXED ? CM_LENGTH × E : 0)`. -/
def State.dataStartOf (s : State) : Nat :=
  18 + s.idLength + (if s.indexed then s.cmLength * bytesOfBits s.cmEntryDepth else 0)

/-- Derive (R80): the per-job quantities, from the registers. E and FSEL_ENT are computed only when INDEXED
(R80); otherwise they are 0 here and nothing reads them (assumption 8). -/
def State.deriveJob (s : State) : JobParams :=
  { unitSize := bytesOfBits s.pixelDepth
    entrySize := if s.indexed then bytesOfBits s.cmEntryDepth else 0
    expected := s.width * s.height * bytesOfBits s.pixelDepth
    dataStart := s.dataStartOf
    paletteBase := 18 + s.idLength + s.cmOrigin
    outLen := s.width * s.height * 4
    fselImg := fselWord s.indexed s.isGray (bytesOfBits s.pixelDepth)
    fselEnt := if s.indexed then fselWord false s.isGray (bytesOfBits s.cmEntryDepth) else 0
    alphaOk := s.alphaHonored }

/-- `out`, the count of RAW bytes produced (R25): the length of RAW, held once. -/
def State.out (s : State) : Nat := s.raw.length

/-- Row order (R74): `srcRow(destRow) = TTB ? destRow : H − 1 − destRow`. -/
def State.srcRow (s : State) (r : Nat) : Nat := if s.topToBottom then r else s.height - 1 - r

/-- Where RAW holds the unit of destination pixel (r, c) (R75): `(sr × W + x) × P`. -/
def State.unitOffset (s : State) (r c : Nat) : Nat := (s.srcRow r * s.width + c) * s.job.unitSize

/-- Where DST holds pixel (r, c) (R31): `(r × W + x) × 4`. -/
def State.pixelAddr (s : State) (r c : Nat) : Nat := (r * s.width + c) * 4

/-- `entryOffset(i) = PALETTE_BASE + i × E` (R39). -/
def State.entryOffset (s : State) (i : Nat) : Nat := s.job.paletteBase + i * s.job.entrySize

end Sys2Proof.Machine
end

