-- ==== Sys2Proof/Machine/Ops.lean ====
section
/-! DEFINITION. The named operations over the state that the meanings share: the error entry (spec/60_exceptions.md
R84) and the return from it, the end of a job, the decoder's and the resolver's register and memory operations,
the register block (spec/10_state.md R12), and the placing of an instruction where the machine fetches it. -/

namespace Sys2Proof.Machine

/-- The answer of one step. -/
abbrev Answer := Host.Outcome State Fault Refusal

/-! ### The end of a job -/

/-- How the job ends: as the reference semantics says, unless the host wrote SRC while it ran; then DONE and
ERROR with any code are all allowed, and the outcome is a free value (R44, assumption 3). -/
def State.jobResult (s : State) (r : Option JobError) : Option JobError :=
  if s.srcDisturbed then Config.freeOutcome s.draws else r

/-- The end of a job: Complete (R82) when there is no error, the error entry (R84) when there is one. STATE
and ERR change, and the job's place in its sequence is given up; nothing else is saved. -/
def State.endJob (s : State) (r : Option JobError) : State :=
  match s.jobResult r with
  | none => { s with status := .done, err := 0, phase := .noJob, draws := s.draws + 1 }
  | some e => { s with status := .error, err := errorCode e, phase := .noJob, draws := s.draws + 1 }

/-- TAKING AN EXCEPTION: `raise E` (R84). -/
def State.raise (s : State) (e : JobError) : State := s.endJob (some e)

/-- Complete (R82): STATE ← DONE. -/
def State.complete (s : State) : State := s.endJob none

/-- START's effect when the engine is not BUSY (R77): STATE ← BUSY, ERR ← 0, and the job begins with CheckConfig
(R78). This is also the one way out of ERROR other than reset (R95). DST becomes unspecified (R32): its bytes
are given up, so nothing of the previous job is carried, and its size is from here on the new job's W × H × 4
(R29), whether or not CheckConfig passes. -/
def State.beginJob (s : State) : State :=
  { s with status := .busy, err := 0, phase := .checkConfig, dst := [], srcDisturbed := false,
           job := { s.job with outLen := s.width * s.height * 4 } }

/-! ### The run-length decoder -/

/-- The decoder takes the control byte at `rd` (R55): `rd <- rd + 1`. -/
def State.takeControl (s : State) : State := { s with rd := s.rd + 1 }

/-- The decoder appends bytes to RAW and moves `rd` past the `used` SRC bytes it read. -/
def State.produce (s : State) (used : Nat) (bs : List Byte) : State :=
  { s with raw := s.raw ++ bs, rd := s.rd + used }

/-! ### The resolver -/

/-- The resolver latches the unit of the pixel it is at (R75, R26). -/
def State.latchUnit (s : State) : State :=
  { s with unit := (s.raw.drop (s.unitOffset s.destRow s.x)).take s.job.unitSize }

/-- The pixel after (destRow, x): columns first, then rows (R75). -/
def State.nextPixel (s : State) : State :=
  if s.x + 1 < s.width then { s with x := s.x + 1 } else { s with x := 0, destRow := s.destRow + 1 }

/-- The four bytes of a quad in increasing DST offset (R35). -/
def Rgba.bytes (q : Rgba) : List Byte := [q.r, q.g, q.b, q.a]

/-- The resolver latches a quad and writes it to DST at the pixel's place (R75). -/
def State.writePixel (s : State) (q : Rgba) : State :=
  { s with rgba := q, dst := Memory.writeBytes s.dst (s.pixelAddr s.destRow s.x) (Rgba.bytes q) }

/-- What resolving a unit gives. -/
inductive Resolved where
  /-- A quad. -/
  | quad (q : Rgba)
  /-- The job ends with an error. -/
  | raises (e : JobError)
  /-- The unit's length is not the selector's SIZE. -/
  | badUnit (n : Nat)
  deriving DecidableEq, Repr

/-- The end of a resolver operation: the quad is written and the walk moves on, or the job ends. -/
def State.emit (s : State) : Resolved → Answer
  | .quad q => .next (s.writePixel q).nextPixel
  | .raises e => .next (s.raise e)
  | .badUnit n => .fault (.unitLength n)

/-! ### The register block (R12) -/

/-- What a 32-bit read of a REG offset returns (R12, R13, R33): CTRL reads 0, reserved bits and unmapped
offsets read 0. -/
def State.readReg (s : State) (off : Nat) : Word :=
  if off = 0x04 then s.statusWord
  else if off = 0x08 then s.srcLen
  else if off = 0x0C then s.dataEnd
  else if off = 0x10 then s.dim
  else if off = 0x14 then s.format
  else if off = 0x18 then s.cmap
  else if off = 0x1C then s.cmap2.setWidth 32
  else if off = 0x20 then s.attr.setWidth 32
  else 0

/-- A 32-bit write to a REG offset other than CTRL (R12, R16, R101): dropped while BUSY. STATUS and unmapped
offsets ignore it, and so do reserved bits. -/
def State.writeReg (s : State) (off : Nat) (v : Word) : State :=
  if s.status = .busy then s
  else if off = 0x08 then { s with srcLen := v }
  else if off = 0x0C then { s with dataEnd := v }
  else if off = 0x10 then { s with dim := v }
  else if off = 0x14 then { s with format := v }
  else if off = 0x18 then { s with cmap := v }
  else if off = 0x1C then { s with cmap2 := v.setWidth 16 }
  else if off = 0x20 then { s with attr := v.setWidth 9 }
  else s

/-! ### The host's reads and writes -/

/-- A host read returns a value. -/
def State.answerHost (s : State) (v : Word) : State := { s with hostData := v }

/-- A host read whose value the spec leaves open: a free byte (R32, assumption 2). -/
def State.answerFree (s : State) : State :=
  { s with hostData := (Config.freeByte s.draws).setWidth 32, draws := s.draws + 1 }

/-- The host stores one SRC byte (R29). While BUSY the job's outcome becomes open (R44). -/
def State.hostStore (s : State) (a : Nat) (b : Byte) : State :=
  { s with src := Memory.write s.src a b,
           srcDisturbed := s.srcDisturbed || decide (s.status = .busy) }

/-- Reset (R98, R99): STATUS and every register at their reset values, the job abandoned, DST unspecified.
SRC is not affected, the parameters are fixed, and the host goes on with what it was to do. -/
def State.hostReset (s : State) : State :=
  { State.resetWith s.caps with
    src := s.src, hostQueue := s.hostQueue, hostData := s.hostData, draws := s.draws }

/-! ### Placing an instruction (assumption 5) -/

/-- A CTRL write of `v` as what the host does next. -/
def State.placeCtrlWrite (s : State) (v : Word) : State :=
  { s with hostQueue := .regWrite 0x00 .word v :: s.hostQueue }

/-- The engine takes the next step, in the named phase of a running job. -/
def State.placeEngine (s : State) (p : Phase) : State :=
  { s with status := .busy, err := 0, phase := p, dst := [], srcDisturbed := false,
           hostQueue := .engineTurn :: s.hostQueue }

/-- A running RLE job of one-byte units whose next control byte is `c`, followed by zero bytes, and whose image
is exactly what the packet produces. -/
def State.placeControl (s : State) (c : Byte) : State :=
  let n := packetCount c
  let len := 19 + (if c &&& 0x80 = 0x80 then 1 else n)
  let t := { s with
    srcLen := BitVec.ofNat 32 len, dataEnd := BitVec.ofNat 32 len,
    dim := BitVec.ofNat 32 (n + 0x10000), format := 0x0008000B, cmap2 := 0,
    src := Memory.writeBytes s.src 18 (c :: List.replicate (len - 19) 0) }
  { t with job := t.deriveJob, rd := 18, raw := [] }.placeEngine .rle

/-- A running job over an image of one pixel whose selector is `f`, whose unit is zero bytes, and whose palette,
when the selector is indexed, is one entry of one zero byte. -/
def State.placeFsel (s : State) (f : Byte) : State :=
  let size := (f.extractLsb' 0 3).toNat
  let idx := f[4]
  let len := 18 + (if idx then 1 else 0) + size
  let t := { s with
    srcLen := BitVec.ofNat 32 len, dataEnd := BitVec.ofNat 32 len, dim := 0x00010001,
    format := BitVec.ofNat 32
      ((if fselGray f then 3 else 2) + 0x100 * (if idx then 1 else 0) + 0x10000 * (8 * size)),
    cmap := 0x00010000, cmap2 := 8,
    src := Memory.writeBytes s.src 18 (List.replicate (len - 18) 0) }
  { t with job := t.deriveJob, raw := List.replicate size 0, destRow := 0, x := 0 }.placeEngine .resolve

/-- Places the instruction with the table word `w` where the machine fetches it next: a CTRL write for the host,
a control byte for the decoder, or a selector for the resolver, told apart as `decodeTableWord` tells them. -/
def State.placeTableWord (s : State) (nbits w : Nat) : State :=
  if nbits = 32 then s.placeCtrlWrite (BitVec.ofNat 32 w)
  else
    match decodeFsel (BitVec.ofNat 8 w) with
    | .ok _ => s.placeFsel (BitVec.ofNat 8 w)
    | .error _ => s.placeControl (BitVec.ofNat 8 w)

end Sys2Proof.Machine
end

