-- ==== Sys2Proof/Machine/Formats.lean ====
section
/-! DEFINITION. The resolver formats (spec/41_pixel_resolver.md R63 to R73). Each direct format is a function of
the unit (and, for TC32, of ALPHA_OK), which the palette entries go through as well (R72). -/

namespace Sys2Proof.Machine

/-- R67: `exp5(f) = (255 × f + 15) div 31`. -/
def exp5 (f : Nat) : Byte := BitVec.ofNat 8 ((255 * f + 15) / 31)

/-- GRAY8 (R64): `(v, v, v, 255)`. -/
def resolveGray8 : List Byte → Resolved
  | [v] => .quad { r := v, g := v, b := v, a := 255 }
  | u => .badUnit u.length

/-- GRAY16A (R65): `(0, 0, 0, b1)`. -/
def resolveGray16a : List Byte → Resolved
  | [_, b1] => .quad { r := 0, g := 0, b := 0, a := b1 }
  | u => .badUnit u.length

/-- The 5-5-5 fields of R66: r5 = v[14:10], g5 = v[9:5], b5 = v[4:0]. -/
def highColour (v : Nat) : Rgba :=
  { r := exp5 (v / 2 ^ 10 % 2 ^ 5), g := exp5 (v / 2 ^ 5 % 2 ^ 5), b := exp5 (v % 2 ^ 5), a := 255 }

/-- HC15 (R66). -/
def resolveHc15 : List Byte → Resolved
  | [b0, b1] => .quad (highColour (le16 b0 b1))
  | u => .badUnit u.length

/-- TC24 (R68): stored B, G, R. -/
def resolveTc24 : List Byte → Resolved
  | [b, g, r] => .quad { r := r, g := g, b := b, a := 255 }
  | u => .badUnit u.length

/-- TC32 (R69): stored B, G, R, A; A is copied only when ALPHA_OK. -/
def resolveTc32 (alphaOk : Bool) : List Byte → Resolved
  | [b, g, r, a] => .quad { r := r, g := g, b := b, a := if alphaOk then a else 255 }
  | u => .badUnit u.length

/-- ResolveDirect (R63): the unit goes through the direct format its selector matches. A selector that matches
none raises UnsupportedPixelDepth (R52); after CheckConfig none does (U10). -/
def resolveDirect (alphaOk : Bool) (sel : Byte) (u : List Byte) : Resolved :=
  match decodeFsel sel with
  | .ok (.gray8 _) => resolveGray8 u
  | .ok .gray16a => resolveGray16a u
  | .ok .hc15 => resolveHc15 u
  | .ok (.tc24 _) => resolveTc24 u
  | .ok (.tc32 _) => resolveTc32 alphaOk u
  | .ok (.index8 _) => .raises .unsupportedPixelDepth
  | .ok (.index16 _) => .raises .unsupportedPixelDepth
  | .ok (.run _) => .raises .unsupportedPixelDepth
  | .ok (.raw _) => .raises .unsupportedPixelDepth
  | .ok (.start _) => .raises .unsupportedPixelDepth
  | .error _ => .raises .unsupportedPixelDepth

/-- PaletteEntry (R72), with the range check of R73. The index is not compared with CM_LENGTH (D25). -/
def paletteEntry (s : State) (i : Nat) : Resolved :=
  if s.srcLen.toNat < s.entryOffset i + s.job.entrySize then .raises .paletteRange
  else resolveDirect s.job.alphaOk s.job.fselEnt (s.srcBytes (s.entryOffset i) s.job.entrySize)

/-- INDEX8 (R70): the unit is the index. -/
def resolveIndex8 (s : State) : List Byte → Resolved
  | [b0] => paletteEntry s b0.toNat
  | u => .badUnit u.length

/-- INDEX16 (R71): the unit is the index, little-endian, all 16 bits. -/
def resolveIndex16 (s : State) : List Byte → Resolved
  | [b0, b1] => paletteEntry s (le16 b0 b1)
  | u => .badUnit u.length

/-! The meanings: the latched unit is resolved, the quad is latched and written, and the walk moves on (R75). -/

/-- GRAY8 (R64): the GRAY bit and ATTR are not consulted. -/
def execGray8 (_gray : Bool) (s : State) : Answer := s.emit (resolveGray8 s.unit)

/-- GRAY16A (R65). -/
def execGray16a (s : State) : Answer := s.emit (resolveGray16a s.unit)

/-- HC15 (R66). -/
def execHc15 (s : State) : Answer := s.emit (resolveHc15 s.unit)

/-- TC24 (R68): the GRAY bit and ATTR are not consulted. -/
def execTc24 (_gray : Bool) (s : State) : Answer := s.emit (resolveTc24 s.unit)

/-- TC32 (R69): the GRAY bit is not consulted. -/
def execTc32 (_gray : Bool) (s : State) : Answer := s.emit (resolveTc32 s.job.alphaOk s.unit)

/-- INDEX8 (R70). The GRAY bit reaches the entry selector, which Derive has computed (R80). -/
def execIndex8 (_gray : Bool) (s : State) : Answer := s.emit (resolveIndex8 s s.unit)

/-- INDEX16 (R71). The GRAY bit reaches the entry selector, which Derive has computed (R80). -/
def execIndex16 (_gray : Bool) (s : State) : Answer := s.emit (resolveIndex16 s s.unit)

end Sys2Proof.Machine
end

