-- ==== Sys2Proof/Machine/JobControl.lean ====
section
/-! DEFINITION. START and the sequence of a job (spec/42_job_control.md R77 to R82). -/

namespace Sys2Proof.Machine

/-- START (R77), the host's write of `v` to CTRL: a no-operation when v[0] = 0, ignored while BUSY, and
otherwise the begin of a job. -/
def execStart (v : Word) (s : State) : Answer :=
  if v[0] = false then .next s
  else if s.status = .busy then .next s
  else .next s.beginJob

/-- Step 3 of R79: whether the depths are in the supported sets. -/
def depthSupported (s : State) : Bool :=
  if s.indexed then
    [8, 16].contains s.pixelDepth && [8, 15, 16, 24, 32].contains s.cmEntryDepth
  else [8, 15, 16, 24, 32].contains s.pixelDepth

/-- CheckConfig (R79): the first check that fails, in the order 1, 2, 3, 4. -/
def checkConfig (s : State) : Option JobError :=
  if ¬ (s.colorMapType = 0 ∨ s.colorMapType = 1) then some .unsupportedColorMapType
  else if ¬ [1, 2, 3, 9, 10, 11].contains s.imageType then some .unsupportedImageType
  else if ¬ depthSupported s then some .unsupportedPixelDepth
  else if s.caps.src < s.srcLen.toNat ∨ s.caps.dst < s.width * s.height * 4
      ∨ s.dataEnd.toNat < s.dataStartOf ∨ s.srcLen.toNat < s.dataEnd.toNat then some .configRange
  else none

/-- The CheckConfig step of a job (R78, R79). -/
def stepCheckConfig (s : State) : State :=
  match checkConfig s with
  | some e => s.raise e
  | none => { s with phase := .derive }

/-- The Derive step of a job (R80), and the entry of the decode phase: DecodeRLE begins with `rd <- DATA_START`
and `out <- 0` (R55); a raw image goes to LoadRaw (R78). -/
def stepDerive (s : State) : State :=
  { s with job := s.deriveJob, raw := [], rd := s.dataStartOf,
           phase := if s.isRle then .rle else .loadRaw }

/-- ResolveImage begins at pixel (0, 0) (R75). -/
def State.beginResolve (s : State) : State := { s with phase := .resolve, destRow := 0, x := 0 }

/-- LoadRaw (R81): ShortRawData when the region holds fewer than N bytes, else RAW is its first N bytes. -/
def stepLoadRaw (s : State) : State :=
  if s.dataEnd.toNat - s.job.dataStart < s.job.expected then s.raise .shortRawData
  else { s with raw := s.srcBytes s.job.dataStart s.job.expected }.beginResolve

end Sys2Proof.Machine
end

