-- ==== Sys2Proof/Machine/Packets.lean ====
section
/-! DEFINITION. The packet instructions RUN and RAW (spec/40_rle_decoder.md R56, R57), with the overproduction
check the packet loop makes before either (R55, R60). The control byte is already taken: `rd` is past it. -/

namespace Sys2Proof.Machine

/-- What both packets share: TruncatedStreamError when the count overshoots N (R60), then when the `need` bytes
after the control byte run past DATA_END (R59); otherwise RAW grows by the packet's bytes. -/
def packetEffect (count need : Nat) (bytes : List Byte) (s : State) : State :=
  if s.job.expected < s.out + count * s.job.unitSize then s.raise .truncatedStream
  else if s.dataEnd.toNat < s.rd + need then s.raise .truncatedStream
  else s.produce need bytes

/-- RUN (R56): one unit of P bytes, written `count` times. -/
def execRun (count : Nat) (s : State) : Answer :=
  .next (packetEffect count s.job.unitSize
    (List.replicate count (s.srcBytes s.rd s.job.unitSize)).flatten s)

/-- RAW (R57): `count × P` literal bytes, copied. -/
def execRaw (count : Nat) (s : State) : Answer :=
  .next (packetEffect count (count * s.job.unitSize) (s.srcBytes s.rd (count * s.job.unitSize)) s)

end Sys2Proof.Machine
end

