-- ==== Sys2Proof/Machine/Dispatch.lean ====
section
/-! DEFINITION. The meaning of every instruction, one arm per constructor of Instr. -/

namespace Sys2Proof.Machine

def exec (i : Instr) (s : State) : Host.Outcome State Fault Refusal :=
  match i with
  | .run count => Sys2Proof.Machine.execRun count s
  | .raw count => Sys2Proof.Machine.execRaw count s
  | .gray8 gray => Sys2Proof.Machine.execGray8 gray s
  | .gray16a => Sys2Proof.Machine.execGray16a s
  | .hc15 => Sys2Proof.Machine.execHc15 s
  | .tc24 gray => Sys2Proof.Machine.execTc24 gray s
  | .tc32 gray => Sys2Proof.Machine.execTc32 gray s
  | .index8 gray => Sys2Proof.Machine.execIndex8 gray s
  | .index16 gray => Sys2Proof.Machine.execIndex16 gray s
  | .start v => Sys2Proof.Machine.execStart v s

end Sys2Proof.Machine
end

