-- ==== Sys2Proof/Machine/Engine.lean ====
section
/-! DEFINITION. The engine's turn: one step of the job sequence of spec/42_job_control.md R78. In the decode
phase a step fetches one control byte and runs its packet (spec/40_rle_decoder.md R55); in the resolve phase it
runs the image selector's format over one pixel (spec/41_pixel_resolver.md R63, R75). -/

namespace Sys2Proof.Machine

/-- One turn of the packet loop (R55): the loop ends at `out = N`; a control byte at or past DATA_END is a
TruncatedStreamError (R59); otherwise the control byte is taken and its packet runs. -/
def turnRle (s : State) : Answer :=
  if s.job.expected ≤ s.out then .next s.beginResolve
  else if s.dataEnd.toNat ≤ s.rd then .next (s.raise .truncatedStream)
  else exec (decodeControl (s.srcByte s.rd)) s.takeControl

/-- One turn of ResolveImage (R75): while there is a pixel, its unit is latched and the operation FSEL_IMG
selects runs; a reserved selector raises UnsupportedPixelDepth (R52). -/
def turnResolve (s : State) : Answer :=
  if s.destRow < s.height ∧ s.x < s.width then
    match decodeFsel s.job.fselImg with
    | .ok i => exec i s.latchUnit
    | .error _ => .next (s.raise .unsupportedPixelDepth)
  else .next { s with phase := .complete }

/-- One step of the running job, by its place in the sequence of R78. -/
def turnBusy (s : State) : Answer :=
  match s.phase with
  | .noJob => .next s
  | .checkConfig => .next (stepCheckConfig s)
  | .derive => .next (stepDerive s)
  | .rle => turnRle s
  | .loadRaw => .next (stepLoadRaw s)
  | .resolve => turnResolve s
  | .complete => .next s.complete

/-- The engine's turn: it runs only while STATE = BUSY (R14, R77). -/
def engineTurn (s : State) : Answer := if s.status = .busy then turnBusy s else .next s

end Sys2Proof.Machine
end

