-- ==== Sys2Proof/Machine/HostPort.lean ====
section
/-! DEFINITION. The host's turn: its register, SRC and DST accesses (spec/20_memory.md R29 to R33, R44), reset
(spec/70_reset_and_hazards.md R98, R99) and polling (R100). -/

namespace Sys2Proof.Machine

/-- The form check of a REG access: a model refuses any access that is not an aligned 32-bit word (R33), and
the REG space ends at 0x3C (R12). -/
def regAccess (off : Nat) (size : AccessSize) (k : Answer) : Answer :=
  if size ≠ .word ∨ off % 4 ≠ 0 then .refused (.regAccessForm off)
  else if 0x40 ≤ off then .fault (.regNoSuchAddress off)
  else k

/-- A host write to REG: at CTRL a value with bit 0 set is a START (R13, R53), and any other value there does
nothing. -/
def hostRegWrite (off : Nat) (v : Word) (s : State) : Answer :=
  if off = 0x00 then
    match decodeStart v with
    | .ok i => exec i s
    | .error _ => .next s
  else .next (s.writeReg off v)

/-- A host write of one SRC byte (R29, R44). -/
def hostSrcWrite (a : Nat) (b : Byte) (s : State) : Answer :=
  if s.caps.src ≤ a then .fault (.srcNoSuchAddress a) else .next (s.hostStore a b)

/-- A host read of one SRC byte. R29 gives the host SRC reads only while STATE ≠ BUSY; what one returns while
BUSY is not stated, so it is a free value (assumption 2). -/
def hostSrcRead (a : Nat) (s : State) : Answer :=
  if s.caps.src ≤ a then .fault (.srcNoSuchAddress a)
  else if s.status = .busy then .next s.answerFree
  else .next (s.answerHost ((s.srcByte a).setWidth 32))

/-- How many DST bytes there are to read (R29): never more than DST_CAPACITY, and at DONE the W × H × 4 of the job
that is DONE, disturbed or not. -/
def State.dstSize (s : State) : Nat :=
  if s.status = .done then min s.job.outLen s.caps.dst else s.caps.dst

/-- The DST byte a host read returns when the spec fixes it: only at DONE (R32), and not when the host wrote SRC
while the job ran (R44). -/
def State.dstByte (s : State) (a : Nat) : Option Byte :=
  if s.status = .done ∧ s.srcDisturbed = false then Memory.read s.dst a else none

/-- A host read of one DST byte (R32): the job's byte, or a free value. -/
def hostDstRead (a : Nat) (s : State) : Answer :=
  if s.dstSize ≤ a then .fault (.dstNoSuchAddress a)
  else
    match s.dstByte a with
    | some b => .next (s.answerHost (b.setWidth 32))
    | none => .next s.answerFree

/-- What the host does, the event already taken from the queue. A poll stays in the queue, and the engine
runs, while STATE is BUSY; then it returns STATUS (R100 step 8). -/
def hostTurn (e : HostEvent) (s : State) : Answer :=
  match e with
  | .regWrite off size v => regAccess off size (hostRegWrite off v s)
  | .regRead off size => regAccess off size (.next (s.answerHost (s.readReg off)))
  | .srcWrite a b => hostSrcWrite a b s
  | .srcRead a => hostSrcRead a s
  | .dstRead a => hostDstRead a s
  | .reset => .next s.hostReset
  | .engineTurn => engineTurn s
  | .poll =>
    if s.status = .busy then engineTurn { s with hostQueue := .poll :: s.hostQueue }
    else .next (s.answerHost s.statusWord)

end Sys2Proof.Machine
end

