-- ==== Sys2Proof/Machine/Step.lean ====
section
/-! DEFINITION. One step of the machine. The host's queue says who moves: its first event, or the engine when it
holds none (assumption 7). -/

namespace Sys2Proof.Machine

/-- One step. -/
def step (s : State) : Host.Outcome State Fault Refusal :=
  match s.hostQueue with
  | [] => engineTurn s
  | e :: rest => hostTurn e { s with hostQueue := rest }

/-- The state with the instruction of table word `w` where the next step fetches it (assumption 5). -/
def State.withFetchWord (s : State) (nbits w : Nat) : State := s.placeTableWord nbits w

end Sys2Proof.Machine
end

