-- ==== Sys2Proof/Machine/Reference.lean ====
section
/-! DEFINITION. The reference semantics of a job as a pure function (spec/00_scope.md R10):
`Job(cfg, SRC) -> DONE(DST bytes) | ERROR(code)`, from the registers and SRC alone, written from the pseudocode of
R55 to R57, R75, R78 and R81 with no step, phase or queue. -/

namespace Sys2Proof.Machine

/-- DecodeRLE (R55 to R57) from SRC offset `rd` with `raw` produced so far. `fuel` bounds the packets: each one
produces at least a byte, so N + 1 is enough (R83). -/
def refDecodeRle (s : State) (j : JobParams) : Nat → Nat → List Byte → Except JobError (List Byte)
  | 0, _, _ => .error .truncatedStream
  | fuel + 1, rd, raw =>
    if j.expected ≤ raw.length then .ok raw
    else if s.dataEnd.toNat ≤ rd then .error .truncatedStream
    else
      let cb := s.srcByte rd
      let count := packetCount cb
      if j.expected < raw.length + count * j.unitSize then .error .truncatedStream
      else if cb[7] then
        if s.dataEnd.toNat < rd + 1 + j.unitSize then .error .truncatedStream
        else refDecodeRle s j fuel (rd + 1 + j.unitSize)
          (raw ++ (List.replicate count (s.srcBytes (rd + 1) j.unitSize)).flatten)
      else
        if s.dataEnd.toNat < rd + 1 + count * j.unitSize then .error .truncatedStream
        else refDecodeRle s j fuel (rd + 1 + count * j.unitSize)
          (raw ++ s.srcBytes (rd + 1) (count * j.unitSize))

/-- LoadRaw (R81). -/
def refLoadRaw (s : State) (j : JobParams) : Except JobError (List Byte) :=
  if s.dataEnd.toNat - j.dataStart < j.expected then .error .shortRawData
  else .ok (s.srcBytes j.dataStart j.expected)

/-- ResolveUnit (R63): indexed or direct, decided by COLOR_MAP_TYPE alone. -/
def refResolveUnit (s : State) (j : JobParams) (u : List Byte) : Resolved :=
  if s.indexed then
    if j.unitSize = 1 then resolveIndex8 { s with job := j } u
    else resolveIndex16 { s with job := j } u
  else resolveDirect j.alphaOk j.fselImg u

/-- The destination pixels in the order of R75: rows, and columns within a row. -/
def pixelOrder (w h : Nat) : List (Nat × Nat) :=
  (List.range h).flatMap (fun r => (List.range w).map (fun c => (r, c)))

/-- ResolveImage (R75) over a list of destination pixels. -/
def refResolve (s : State) (j : JobParams) (raw : List Byte) : List (Nat × Nat) → Except JobError (List Byte)
  | [] => .ok []
  | (r, c) :: ps =>
    match refResolveUnit s j ((raw.drop ((s.srcRow r * s.width + c) * j.unitSize)).take j.unitSize) with
    | .quad q =>
      match refResolve s j raw ps with
      | .ok bs => .ok (Rgba.bytes q ++ bs)
      | .error e => .error e
    | .raises e => .error e
    | .badUnit _ => .error .unsupportedPixelDepth

/-- Job (R78): CheckConfig, Derive, DecodeRLE or LoadRaw, ResolveImage, in that order, which fixes the
priority of errors (R93). -/
def refJob (s : State) : Except JobError (List Byte) :=
  match checkConfig s with
  | some e => .error e
  | none =>
    let j := s.deriveJob
    match (if s.isRle then refDecodeRle s j (j.expected + 1) j.dataStart [] else refLoadRaw s j) with
    | .error e => .error e
    | .ok raw => refResolve s j raw (pixelOrder s.width s.height)

end Sys2Proof.Machine
end

