-- ==== Sys2Proof/Safety.lean ====
section
/-! DEFINITION. What claims are stated in: the invariant every step keeps, the state a step answers, and which
events leave the machine running. -/

namespace Sys2Proof.Machine

/-- The next state of an answer, if it is one. -/
def nextOf : Answer → Option State
  | .next s => some s
  | .fault _ => none
  | .refused _ => none

/-- An answer with its next state changed by `f`. -/
def mapNext (f : State → State) : Answer → Answer
  | .next s => .next (f s)
  | .fault r => .fault r
  | .refused r => .refused r

/-- It is the engine's turn: the host has nothing to do, lets the engine go, or polls a BUSY engine. -/
def engineMoves (s : State) : Prop :=
  s.hostQueue = [] ∨ s.hostQueue.head? = some .engineTurn
    ∨ (s.hostQueue.head? = some .poll ∧ s.status = .busy)

/-- The host only waits: it has nothing to do, or it polls (R100 step 8), whatever it does after that. -/
def hostWaits (q : List HostEvent) : Prop := q = [] ∨ q.head? = some .poll

/-- The state the engine's turn starts from: the host's permission to take it is used up. -/
def State.engineView (s : State) : State :=
  match s.hostQueue with
  | .engineTurn :: q => { s with hostQueue := q }
  | _ => s

/-- The configuration has passed CheckConfig and the per-job quantities are those of Derive (R79, R80). -/
def State.configured (s : State) : Prop := checkConfig s = none ∧ s.job = s.deriveJob

/-- DST holds exactly the bytes below offset `n`. -/
def State.dstFilled (s : State) (n : Nat) : Prop := ∀ a, (Memory.read s.dst a).isSome = true ↔ a < n

/-- The walk stands at a pixel of the image, or just past its last one (R75). -/
def State.cursorOk (s : State) : Prop :=
  (s.destRow < s.height ∧ s.x < s.width) ∨ (s.destRow = s.height ∧ s.x = 0)
    ∨ (s.width = 0 ∧ s.destRow = 0 ∧ s.x = 0)

/-- What holds of the job's own state in each phase. -/
def State.phaseInv (s : State) : Prop :=
  match s.phase with
  | .noJob => s.status = .done → s.srcDisturbed = false → s.dstFilled s.job.outLen ∧ s.job.outLen ≤ s.caps.dst
  | .checkConfig => s.dst = []
  | .derive => checkConfig s = none ∧ s.dst = []
  | .rle => s.configured ∧ s.isRle = true ∧ s.dst = [] ∧ s.job.dataStart ≤ s.rd
      ∧ s.rd ≤ s.dataEnd.toNat ∧ s.out ≤ s.job.expected ∧ s.job.unitSize ∣ s.out
  | .loadRaw => s.configured ∧ s.isRle = false ∧ s.dst = []
  | .resolve => s.configured ∧ s.out = s.job.expected ∧ s.cursorOk
      ∧ s.dstFilled (s.pixelAddr s.destRow s.x)
  | .complete => s.configured ∧ s.out = s.job.expected ∧ s.dstFilled s.job.outLen

/-- THE INVARIANT: both memories are canonical and SRC lies inside its space; the parameters are legal; ERR is 0
exactly when STATE ≠ ERROR and never above 7 (R15, R85); a job runs exactly while BUSY (R14), and then
holds its W × H × 4 as its output size (R20, R29, assumption 13); and the job's own state fits its phase. -/
structure State.Inv (s : State) : Prop where
  srcWf : Memory.wf s.src
  dstWf : Memory.wf s.dst
  srcInside : ∀ c ∈ s.src, c.1 < s.caps.src
  capsLegal : s.caps.legal
  errZero : s.err = 0 ↔ s.status ≠ .error
  errRange : s.err.toNat ≤ 7
  busyPhase : s.status = .busy ↔ s.phase ≠ .noJob
  outLenOk : s.status = .busy → s.job.outLen = s.width * s.height * 4
  phaseOk : s.phaseInv

/-- What a resolver operation that makes the quad `q` does (R75, R31, R35), said through reads of single DST bytes:
the quad is latched, its four bytes stand at the pixel's place in the order R, G, B, A, every other DST byte reads
as before, the walk moves to the next pixel, and nothing else changes. -/
def pixelWritten (s t : State) (q : Rgba) : Prop :=
  t.rgba = q
  ∧ Memory.read t.dst ((s.destRow * s.width + s.x) * 4) = some q.r
  ∧ Memory.read t.dst ((s.destRow * s.width + s.x) * 4 + 1) = some q.g
  ∧ Memory.read t.dst ((s.destRow * s.width + s.x) * 4 + 2) = some q.b
  ∧ Memory.read t.dst ((s.destRow * s.width + s.x) * 4 + 3) = some q.a
  ∧ (∀ k, k < (s.destRow * s.width + s.x) * 4 ∨ (s.destRow * s.width + s.x) * 4 + 4 ≤ k →
      Memory.read t.dst k = Memory.read s.dst k)
  ∧ (t.destRow, t.x) = (if s.x + 1 < s.width then (s.destRow, s.x + 1) else (s.destRow + 1, 0))
  ∧ t = { s with dst := t.dst, rgba := t.rgba, destRow := t.destRow, x := t.x }

/-- The colour of a palette entry of `E` bytes `e 0, e 1, …`, straight from R72's list: E = 1 gives GRAY8, E = 2
HC15 or (when IS_GRAY) GRAY16A, E = 3 TC24, E = 4 TC32. -/
def entryColour (E : Nat) (gray alphaOk : Bool) (e : Nat → Byte) : Rgba :=
  if E = 1 then { r := e 0, g := e 0, b := e 0, a := 255 }
  else if E = 2 then
    if gray then { r := 0, g := 0, b := 0, a := e 1 } else highColour (le16 (e 0) (e 1))
  else if E = 3 then { r := e 2, g := e 1, b := e 0, a := 255 }
  else { r := e 2, g := e 1, b := e 0, a := if alphaOk then e 3 else 255 }

/-- The configuration registers of a state, read together (R16). -/
def State.config (s : State) : Word × Word × Word × Word × Word × BitVec 16 × BitVec 9 :=
  (s.srcLen, s.dataEnd, s.dim, s.format, s.cmap, s.cmap2, s.attr)

/-- `t` is `s` with its job ended in the error `e`: STATE = ERROR, ERR its code, and no other register, memory or
latch changed (R84). -/
def endedWith (s : State) (e : JobError) (t : State) : Prop :=
  t = { s with status := .error, err := errorCode e, phase := .noJob, draws := s.draws + 1 }

end Sys2Proof.Machine
end

