-- ==== Sys2Proof/Certificates/Slice0/Obligations.lean ====
section
/-! DEFINITION. The statements for the provers. Each docstring names the rules of spec/ it formalises. -/

open Sys2Proof Sys2Proof.Machine

/-! ### Encoding -/

/-- Words written out from R47, R48, R51 and R53 decode to the instructions they stand for. -/
def Obligations.WordsOfEachFamilyDecode : Prop :=
  decode (.control 0b10000011#8) = .ok (.run 4)
  ∧ decode (.control 0b00000010#8) = .ok (.raw 3)
  ∧ decode (.fsel 0b00001001#8) = .ok (.gray8 true)
  ∧ decode (.fsel 0b00001010#8) = .ok .gray16a
  ∧ decode (.fsel 0b00000010#8) = .ok .hc15
  ∧ decode (.fsel 0b00000011#8) = .ok (.tc24 false)
  ∧ decode (.fsel 0b00001100#8) = .ok (.tc32 true)
  ∧ decode (.fsel 0b00010001#8) = .ok (.index8 false)
  ∧ decode (.fsel 0b00011010#8) = .ok (.index16 true)
  ∧ decode (.ctrlWrite 0x80000001#32) = .ok (.start 0x80000001#32)

/-- R47, R48, R50: every control byte is a packet: bit 7 selects RUN or RAW, and the count is the low seven bits
plus one, from 1 to 128. -/
def Obligations.EveryControlByteIsAPacket : Prop :=
  ∀ c : Byte, ∃ n, n = c.toNat % 128 + 1 ∧ 1 ≤ n ∧ n ≤ 128
    ∧ decodeControl c = (if 128 ≤ c.toNat then .run n else .raw n)

/-- R52: the selector values that match no row are exactly those with a bit of 7:5 set, SIZE 0, 5, 6 or 7, or IDX
with SIZE 3 or 4; a configured job never computes one, and an indexed 15-bit configuration does not pass; and
where a pixel or a palette entry met one, the job would end in UnsupportedPixelDepth. -/
def Obligations.ReservedSelectorsAreRefused : Prop :=
  (∀ f : Byte, decodeFsel f = .error (.reservedFsel f) ↔
    (32 ≤ f.toNat ∨ f.toNat % 8 = 0 ∨ 5 ≤ f.toNat % 8
      ∨ (16 ≤ f.toNat % 32 ∧ (f.toNat % 8 = 3 ∨ f.toNat % 8 = 4))))
  ∧ (∀ s : State, s.configured →
      decodeFsel s.job.fselImg ≠ .error (.reservedFsel s.job.fselImg)
      ∧ (s.indexed = true → decodeFsel s.job.fselEnt ≠ .error (.reservedFsel s.job.fselEnt)))
  ∧ (∀ s : State, s.indexed = true → s.pixelDepth = 15 → checkConfig s ≠ none)
  ∧ (∀ s : State, s.status = .busy → s.phase = .resolve → s.srcDisturbed = false → s.destRow < s.height →
      s.x < s.width → decodeFsel s.job.fselImg = .error (.reservedFsel s.job.fselImg) →
      ∃ t, engineTurn s = .next t ∧ endedWith s .unsupportedPixelDepth t)
  ∧ (∀ (ok : Bool) (f : Byte) (u : List Byte), decodeFsel f = .error (.reservedFsel f) →
      resolveDirect ok f u = .raises .unsupportedPixelDepth)

/-- Decoding and encoding agree in both directions, for every instruction and every encoded object. -/
def Obligations.DecodeAndEncodeAgree : Prop :=
  (∀ i : Instr, i.wellFormed = true → decode (encode i) = .ok i)
  ∧ (∀ e i, decode e = .ok i → i.wellFormed = true ∧ encode i = e)

/-- R49, R54: a packet's bytes, followed by anything, read back as that packet and what followed, and their number
is 1 + P for RUN and 1 + n × P for RAW. -/
def Obligations.AssembledPacketsReadBack : Prop :=
  ∀ (P : Nat) (p : Packet) (rest : List Byte), p.wellFormed P = true →
    decodePacket P (assemblePacket p ++ rest) = .ok (p, rest)
    ∧ (assemblePacket p).length =
        (match p with
         | .run _ _ => 1 + P
         | .raw n _ => 1 + n * P)

/-- R54: the assembler accepts exactly the well-formed packets: it rejects n = 0, n > 128, a RAW packet whose
units are not n, and a unit whose length is not P. -/
def Obligations.AssemblerAcceptsExactlyWellFormedPackets : Prop :=
  ∀ (P : Nat) (p : Packet) (bs : List Byte),
    assemble P p = .ok bs ↔ p.wellFormed P = true ∧ bs = assemblePacket p

/-- R54: the expansions of FILL and COPY are well-formed packets, and together they stand for the n copies of the
unit, or for the units in order. -/
def Obligations.PseudoExpansionKeepsTheUnits : Prop :=
  ∀ (P : Nat) (p : PseudoPacket), p.wellFormed P = true →
    (∀ q ∈ expandPseudo p, q.wellFormed P = true) ∧ (expandPseudo p).flatMap Packet.units = p.units

/-! ### A step runs the decoded instruction -/

/-- R13, R53: a host write to CTRL is a START exactly when its bit 0 is set, and then the step runs it; the other 31
bits are ignored; with bit 0 clear nothing happens; a read of CTRL returns 0. -/
def Obligations.StepRunsTheCtrlWrite : Prop :=
  (∀ (v : Word) (i : Instr), decode (.ctrlWrite v) = .ok i ↔ v[0] = true ∧ i = .start v)
  ∧ (∀ (v w : Word) (s : State), v[0] = w[0] → exec (.start v) s = exec (.start w) s)
  ∧ ∀ (s : State) (q : List HostEvent) (v : Word),
    (s.hostQueue = .regWrite 0x00 .word v :: q →
      (∀ i, decode (.ctrlWrite v) = .ok i → step s = exec i { s with hostQueue := q })
      ∧ (v[0] = false → step s = .next { s with hostQueue := q }))
    ∧ (s.hostQueue = .regRead 0x00 .word :: q → step s = .next { s with hostQueue := q, hostData := 0 })

/-- When the packet loop has a control byte to read, the step reads it at `rd`, moves `rd` past it, and runs the packet
it decodes to (R55). -/
def Obligations.StepRunsTheControlByte : Prop :=
  ∀ (s : State) (i : Instr), engineMoves s → s.status = .busy → s.phase = .rle →
    s.out < s.job.expected → s.rd < s.dataEnd.toNat → decode (.control (s.srcByte s.rd)) = .ok i →
    step s = exec i { s.engineView with rd := s.rd + 1 }

/-- When the walk has a pixel, the step latches its unit, the P bytes of RAW at `(sr × W + x) × P`, and runs the
operation FSEL_IMG selects (R63, R75). -/
def Obligations.StepRunsTheSelector : Prop :=
  ∀ (s : State) (i : Instr), engineMoves s → s.status = .busy → s.phase = .resolve →
    s.destRow < s.height → s.x < s.width → decode (.fsel s.job.fselImg) = .ok i →
    step s = exec i { s.engineView with
      unit := (s.raw.drop ((s.srcRow s.destRow * s.width + s.x) * s.job.unitSize)).take s.job.unitSize }

/-! ### START -/

/-- R77: what a CTRL write does in every case: nothing when bit 0 is clear or the engine is BUSY; otherwise STATE
becomes BUSY, ERR 0 and the job begins with CheckConfig. Straight after reset the job ends in ERROR code 4. Three
clauses are the model's own and no part of R77: the DST bytes are given up (assumption 11), the mark of a disturbed SRC
is cleared (assumption 3), and the job holds its output size W × H × 4 from START on (assumption 13). -/
def Obligations.StartBeginsAJob : Prop :=
  (∀ (v : Word) (s : State), v[0] = false ∨ s.status = .busy → exec (.start v) s = .next s)
  ∧ (∀ (v : Word) (s : State), v[0] = true → s.status ≠ .busy →
      ∃ t, exec (.start v) s = .next t
        ∧ t = { s with status := .busy, err := 0, phase := .checkConfig, dst := [], srcDisturbed := false,
                       job := { s.job with outLen := s.width * s.height * 4 } }
        ∧ ∀ a, t.dstByte a = none)
  ∧ (∀ (c : Capacities) (v : Word), v[0] = true →
      ∃ t u, exec (.start v) (State.resetWith c) = .next t ∧ engineTurn t = .next u
        ∧ u.status = .error ∧ u.err = 4)

/-! ### The run-length decoder -/

/-- R56, R61: a RUN that fits writes its unit `n` times, byte for byte, after the bytes RAW holds, takes P SRC
bytes, and changes nothing else; a RUN whose unit would pass DATA_END is TruncatedStreamError. -/
def Obligations.RunRepeatsItsUnit : Prop :=
  ∀ (n : Nat) (s : State),
    (s.out + n * s.job.unitSize ≤ s.job.expected → s.rd + s.job.unitSize ≤ s.dataEnd.toNat →
      ∃ t, exec (.run n) s = .next t
        ∧ t = { s with raw := t.raw, rd := s.rd + s.job.unitSize }
        ∧ t.out = s.out + n * s.job.unitSize
        ∧ (∀ a, a < s.out → t.raw[a]? = s.raw[a]?)
        ∧ ∀ j k, j < n → k < s.job.unitSize →
            t.raw[s.out + j * s.job.unitSize + k]? = some (s.srcByte (s.rd + k)))
    ∧ (s.srcDisturbed = false → s.dataEnd.toNat < s.rd + s.job.unitSize →
      ∃ t, exec (.run n) s = .next t ∧ endedWith s .truncatedStream t)

/-- R57, R61: a RAW that fits copies its `n × P` literal bytes, byte for byte, after the bytes RAW holds, takes as
many SRC bytes, and changes nothing else; a RAW whose literals would pass DATA_END is TruncatedStreamError. -/
def Obligations.RawCopiesItsLiterals : Prop :=
  ∀ (n : Nat) (s : State),
    (s.out + n * s.job.unitSize ≤ s.job.expected → s.rd + n * s.job.unitSize ≤ s.dataEnd.toNat →
      ∃ t, exec (.raw n) s = .next t
        ∧ t = { s with raw := t.raw, rd := s.rd + n * s.job.unitSize }
        ∧ t.out = s.out + n * s.job.unitSize
        ∧ (∀ a, a < s.out → t.raw[a]? = s.raw[a]?)
        ∧ ∀ j, j < n * s.job.unitSize → t.raw[s.out + j]? = some (s.srcByte (s.rd + j)))
    ∧ (s.srcDisturbed = false → s.dataEnd.toNat < s.rd + n * s.job.unitSize →
      ∃ t, exec (.raw n) s = .next t ∧ endedWith s .truncatedStream t)

/-- R59: running out of input, measured against DATA_END, is TruncatedStreamError in each of the three cases, and
nothing that was produced before can be read. -/
def Obligations.RunningOutOfInputIsFatal : Prop :=
  ∀ (s : State), s.srcDisturbed = false →
    (s.status = .busy → s.phase = .rle → s.out < s.job.expected → s.dataEnd.toNat ≤ s.rd →
      ∃ t, engineTurn s = .next t ∧ endedWith s .truncatedStream t ∧ ∀ a, t.dstByte a = none)
    ∧ (∀ n, s.dataEnd.toNat < s.rd + s.job.unitSize →
      ∃ t, exec (.run n) s = .next t ∧ endedWith s .truncatedStream t ∧ ∀ a, t.dstByte a = none)
    ∧ (∀ n, s.dataEnd.toNat < s.rd + n * s.job.unitSize →
      ∃ t, exec (.raw n) s = .next t ∧ endedWith s .truncatedStream t ∧ ∀ a, t.dstByte a = none)

/-- R60: a packet whose count would pass N is TruncatedStreamError, whatever SRC holds: none of its unit bytes
is read. -/
def Obligations.OverproductionIsFatal : Prop :=
  ∀ (n : Nat) (s : State), s.srcDisturbed = false → s.job.expected < s.out + n * s.job.unitSize →
    (∃ t, exec (.run n) s = .next t ∧ endedWith s .truncatedStream t)
    ∧ (∃ t, exec (.raw n) s = .next t ∧ endedWith s .truncatedStream t)

/-- R62: a turn of the packet loop reads SRC only inside [rd, DATA_END); while the loop goes on, `rd` only moves
forward, stays within DATA_END, and the turn read only the bytes it passed, so each byte is read at most once
and in rising order; and RAW never grows past N. -/
def Obligations.DecoderReadsForwardInsideItsRegion : Prop :=
  ∀ (s t : State) (m : Memory), s.status = .busy → s.phase = .rle → s.rd ≤ s.dataEnd.toNat →
    s.out ≤ s.job.expected → engineTurn s = .next t →
    ((∀ a, s.rd ≤ a → a < s.dataEnd.toNat → ({ s with src := m } : State).srcByte a = s.srcByte a) →
      engineTurn { s with src := m } = .next { t with src := m })
    ∧ t.out ≤ s.job.expected
    ∧ (t.phase = .rle → s.rd < t.rd ∧ t.rd ≤ s.dataEnd.toNat
        ∧ ((∀ a, s.rd ≤ a → a < t.rd → ({ s with src := m } : State).srcByte a = s.srcByte a) →
            engineTurn { s with src := m } = .next { t with src := m }))

/-- Where SRC holds an assembled packet at `rd` and the packet fits, one turn of the packet loop appends exactly the
packet's units to RAW and moves `rd` past the packet (R54 to R57). -/
def Obligations.AssembledPacketRuns : Prop :=
  ∀ (s : State) (p : Packet), s.status = .busy → s.phase = .rle →
    p.wellFormed s.job.unitSize = true →
    s.out < s.job.expected →
    s.srcBytes s.rd (assemblePacket p).length = assemblePacket p →
    s.rd + (assemblePacket p).length ≤ s.dataEnd.toNat →
    s.out + p.units.length * s.job.unitSize ≤ s.job.expected →
    engineTurn s = .next { s with raw := s.raw ++ p.units.flatten, rd := s.rd + (assemblePacket p).length }

/-! ### The pixel-format resolver -/

/-- R64: GRAY8 writes (v, v, v, 255), whatever its GRAY bit and ATTR hold. -/
def Obligations.Gray8Result : Prop :=
  ∀ (g : Bool) (v : Byte) (s : State), s.unit = [v] →
    ∃ t, exec (.gray8 g) s = .next t ∧ pixelWritten s t { r := v, g := v, b := v, a := 255 }

/-- R65: GRAY16A writes (0, 0, 0, b1). -/
def Obligations.Gray16aResult : Prop :=
  ∀ (b0 b1 : Byte) (s : State), s.unit = [b0, b1] →
    ∃ t, exec .gray16a s = .next t ∧ pixelWritten s t { r := 0, g := 0, b := 0, a := b1 }

/-- R66, R67: HC15 writes the three 5-bit fields of the little-endian value, each expanded by
`(255 × f + 15) div 31`, and A = 255; bit 15 does not matter. -/
def Obligations.Hc15Result : Prop :=
  ∀ (b0 b1 : Byte) (s : State), s.unit = [b0, b1] →
    ∃ t q, exec .hc15 s = .next t ∧ pixelWritten s t q
      ∧ q.r.toNat = (255 * ((b0.toNat + 256 * b1.toNat) / 1024 % 32) + 15) / 31
      ∧ q.g.toNat = (255 * ((b0.toNat + 256 * b1.toNat) / 32 % 32) + 15) / 31
      ∧ q.b.toNat = (255 * ((b0.toNat + 256 * b1.toNat) % 32) + 15) / 31
      ∧ q.a = 255

/-- R67: exp5 is `(255 × f + 15) div 31`, which is 255 × f / 31 rounded to the nearest integer, never half-way; and
the rule's table. -/
def Obligations.ChannelExpansionRounds : Prop :=
  (∀ f, f ≤ 31 → (exp5 f).toNat = (255 * f + 15) / 31
    ∧ 62 * (exp5 f).toNat < 510 * f + 31 ∧ 510 * f < 62 * (exp5 f).toNat + 31)
  ∧ (List.range 32).map (fun f => (exp5 f).toNat)
      = [0, 8, 16, 25, 33, 41, 49, 58, 66, 74, 82, 90, 99, 107, 115, 123]
        ++ [132, 140, 148, 156, 165, 173, 181, 189, 197, 206, 214, 222, 230, 239, 247, 255]

/-- R68: TC24 writes (r, g, b, 255) from the stored order b, g, r. -/
def Obligations.Tc24Result : Prop :=
  ∀ (gr : Bool) (b g r : Byte) (s : State), s.unit = [b, g, r] →
    ∃ t, exec (.tc24 gr) s = .next t ∧ pixelWritten s t { r := r, g := g, b := b, a := 255 }

/-- R69, R23: TC32 writes (r, g, b) from the stored order b, g, r, a, and A is copied when ATTR_PRESENT = 0 or
ATTR_TYPE is none of 0, 1, 2, and is 255 otherwise. -/
def Obligations.Tc32Result : Prop :=
  ∀ (gr : Bool) (b g r a : Byte) (s : State), s.unit = [b, g, r, a] → s.job = s.deriveJob →
    ∃ t, exec (.tc32 gr) s = .next t
      ∧ pixelWritten s t
          (Rgba.mk r g b (if s.attr.toNat < 256 ∨ 3 ≤ s.attr.toNat % 256 then a else 255))

/-- R70, R72: INDEX8 in a configured indexed job: the unit is the index, whatever CM_LENGTH; for an entry inside SRC
the pixel gets the entry's colour, and past SRC_LEN the job ends in PaletteRangeError. -/
def Obligations.Index8Result : Prop :=
  ∀ (g : Bool) (b0 : Byte) (s : State), s.configured → s.indexed = true → s.unit = [b0] →
    let E := (s.cmEntryDepth + 7) / 8
    let off := 18 + s.idLength + s.cmOrigin + b0.toNat * E
    (off + E ≤ s.srcLen.toNat →
      ∃ t, exec (.index8 g) s = .next t
        ∧ pixelWritten s t (entryColour E s.isGray s.alphaHonored (fun k => s.srcByte (off + k))))
    ∧ (s.srcLen.toNat < off + E → s.srcDisturbed = false →
      ∃ t, exec (.index8 g) s = .next t ∧ endedWith s .paletteRange t)

/-- R71, R72: INDEX16 likewise, with the little-endian index b0 + 256 × b1, no bit masked. -/
def Obligations.Index16Result : Prop :=
  ∀ (g : Bool) (b0 b1 : Byte) (s : State), s.configured → s.indexed = true → s.unit = [b0, b1] →
    let E := (s.cmEntryDepth + 7) / 8
    let off := 18 + s.idLength + s.cmOrigin + (b0.toNat + 256 * b1.toNat) * E
    (off + E ≤ s.srcLen.toNat →
      ∃ t, exec (.index16 g) s = .next t
        ∧ pixelWritten s t (entryColour E s.isGray s.alphaHonored (fun k => s.srcByte (off + k))))
    ∧ (s.srcLen.toNat < off + E → s.srcDisturbed = false →
      ∃ t, exec (.index16 g) s = .next t ∧ endedWith s .paletteRange t)

/-- R63 gives every format a unit of its selector's SIZE; a resolver operation given a unit of another length stops by
name (the model's own stop, assumption 14; no run reaches it). -/
def Obligations.UnitsOfTheWrongLengthFault : Prop :=
  ∀ (g : Bool) (s : State),
    (s.unit.length ≠ 1 → exec (.gray8 g) s = .fault (.unitLength s.unit.length)
      ∧ exec (.index8 g) s = .fault (.unitLength s.unit.length))
    ∧ (s.unit.length ≠ 2 → exec .gray16a s = .fault (.unitLength s.unit.length)
      ∧ exec .hc15 s = .fault (.unitLength s.unit.length)
      ∧ exec (.index16 g) s = .fault (.unitLength s.unit.length))
    ∧ (s.unit.length ≠ 3 → exec (.tc24 g) s = .fault (.unitLength s.unit.length))
    ∧ (s.unit.length ≠ 4 → exec (.tc32 g) s = .fault (.unitLength s.unit.length))

/-- R73: a palette read that would pass SRC_LEN raises PaletteRangeError, for both index widths. -/
def Obligations.PaletteReadPastSrcLenIsFatal : Prop :=
  ∀ (g : Bool) (s : State), s.srcDisturbed = false →
    (∀ b0, s.unit = [b0] →
      s.srcLen.toNat < s.job.paletteBase + b0.toNat * s.job.entrySize + s.job.entrySize →
      ∃ t, exec (.index8 g) s = .next t ∧ endedWith s .paletteRange t)
    ∧ (∀ b0 b1, s.unit = [b0, b1] →
      s.srcLen.toNat
        < s.job.paletteBase + (b0.toNat + 256 * b1.toNat) * s.job.entrySize + s.job.entrySize →
      ∃ t, exec (.index16 g) s = .next t ∧ endedWith s .paletteRange t)

/-- R51, R52, R63: in a configured job FSEL_IMG is the selector of the operation that COLOR_MAP_TYPE, IS_GRAY and P
name, and it is never reserved. -/
def Obligations.SelectorNamesTheOperation : Prop :=
  ∀ s : State, s.configured →
    (s.indexed = true → s.job.unitSize = 1 ∧ decodeFsel s.job.fselImg = .ok (.index8 s.isGray)
      ∨ s.job.unitSize = 2 ∧ decodeFsel s.job.fselImg = .ok (.index16 s.isGray))
    ∧ (s.indexed = false → s.job.unitSize = 1 ∧ decodeFsel s.job.fselImg = .ok (.gray8 s.isGray)
      ∨ s.job.unitSize = 2 ∧ s.isGray = true ∧ decodeFsel s.job.fselImg = .ok .gray16a
      ∨ s.job.unitSize = 2 ∧ s.isGray = false ∧ decodeFsel s.job.fselImg = .ok .hc15
      ∨ s.job.unitSize = 3 ∧ decodeFsel s.job.fselImg = .ok (.tc24 s.isGray)
      ∨ s.job.unitSize = 4 ∧ decodeFsel s.job.fselImg = .ok (.tc32 s.isGray))

/-- R76: resolving depends on the unit, the palette and the job alone: two pixels with the same unit both end the job
or both get the same quad, so a run may be resolved once. -/
def Obligations.SameUnitSameQuad : Prop :=
  ∀ (g : Bool) (s s' : State), s.unit = s'.unit → s.src = s'.src → s.srcLen = s'.srcLen → s.job = s'.job →
    ∀ i ∈ [Instr.index8 g, .index16 g], ∀ t, exec i s = .next t →
      ∃ t', exec i s' = .next t'
        ∧ ((t = s.raise .paletteRange ∧ t' = s'.raise .paletteRange)
          ∨ (t = s.raise .unsupportedPixelDepth ∧ t' = s'.raise .unsupportedPixelDepth)
          ∨ ∃ q, pixelWritten s t q ∧ pixelWritten s' t' q)

/-- R74: the row order is `destRow` itself when DESCRIPTOR[5] is set and `H − 1 − destRow` otherwise; it stays
inside the image and is its own inverse; and the columns of a row are not mirrored. -/
def Obligations.RowOrderIsItsOwnInverse : Prop :=
  ∀ (s : State) (r : Nat), r < s.height →
    s.srcRow r = (if s.format.toNat / 2 ^ 29 % 2 = 1 then r else s.height - 1 - r)
    ∧ s.srcRow r < s.height ∧ s.srcRow (s.srcRow r) = r
    ∧ ∀ c, s.unitOffset r c = (s.srcRow r * s.width + c) * s.job.unitSize

/-- R31, R75: the pixels tile DST[0, W × H × 4): no two share a byte, every byte belongs to one, and each pixel's
unit lies inside RAW[0, N). -/
def Obligations.PixelsTileTheOutput : Prop :=
  ∀ s : State, s.job = s.deriveJob →
    (∀ r c r' c', c < s.width → c' < s.width → s.pixelAddr r c = s.pixelAddr r' c' → r = r' ∧ c = c')
    ∧ (∀ a, a < s.job.outLen → ∃ r c, r < s.height ∧ c < s.width
        ∧ s.pixelAddr r c ≤ a ∧ a < s.pixelAddr r c + 4)
    ∧ (∀ r c, r < s.height → c < s.width →
        s.pixelAddr r c + 4 ≤ s.job.outLen ∧ s.unitOffset r c + s.job.unitSize ≤ s.job.expected)

/-! ### Job control and errors -/

/-- R79: CheckConfig's checks in their order, each with its code; when all pass the job goes on to Derive with
nothing else changed. -/
def Obligations.CheckConfigOrder : Prop :=
  ∀ s : State, s.status = .busy → s.phase = .checkConfig → s.srcDisturbed = false →
    let okMap := s.colorMapType = 0 ∨ s.colorMapType = 1
    let okType := s.imageType = 1 ∨ s.imageType = 2 ∨ s.imageType = 3 ∨ s.imageType = 9
      ∨ s.imageType = 10 ∨ s.imageType = 11
    let fiveDepths := fun d => d = 8 ∨ d = 15 ∨ d = 16 ∨ d = 24 ∨ d = 32
    let okDepth := (s.colorMapType = 1 ∧ (s.pixelDepth = 8 ∨ s.pixelDepth = 16) ∧ fiveDepths s.cmEntryDepth)
      ∨ (s.colorMapType ≠ 1 ∧ fiveDepths s.pixelDepth)
    let dataStart := 18 + s.idLength
      + (if s.colorMapType = 1 then s.cmLength * ((s.cmEntryDepth + 7) / 8) else 0)
    let okRange := s.srcLen.toNat ≤ s.caps.src ∧ s.width * s.height * 4 ≤ s.caps.dst
      ∧ dataStart ≤ s.dataEnd.toNat ∧ s.dataEnd.toNat ≤ s.srcLen.toNat
    ∃ t, engineTurn s = .next t
      ∧ (¬ okMap → endedWith s .unsupportedColorMapType t)
      ∧ (okMap → ¬ okType → endedWith s .unsupportedImageType t)
      ∧ (okMap → okType → ¬ okDepth → endedWith s .unsupportedPixelDepth t)
      ∧ (okMap → okType → okDepth → ¬ okRange → endedWith s .configRange t)
      ∧ (okMap → okType → okDepth → okRange → t = { s with phase := .derive })

/-- R80: the per-job quantities Derive computes. -/
def Obligations.DeriveComputesTheJob : Prop :=
  ∀ s : State, s.status = .busy → s.phase = .derive →
    let P := (s.pixelDepth + 7) / 8
    let E := (s.cmEntryDepth + 7) / 8
    let gray := decide (s.imageType = 3 ∨ s.imageType = 11)
    ∃ t, engineTurn s = .next t
      ∧ t.config = s.config ∧ t.src = s.src ∧ t.status = .busy
      ∧ t.phase = (if 8 < s.imageType then .rle else .loadRaw)
      ∧ t.job.unitSize = P ∧ t.job.expected = s.width * s.height * P ∧ t.job.outLen = s.width * s.height * 4
      ∧ t.job.dataStart = 18 + s.idLength + (if s.colorMapType = 1 then s.cmLength * E else 0)
      ∧ t.job.paletteBase = 18 + s.idLength + s.cmOrigin
      ∧ t.job.fselImg.toNat
          = 16 * (decide (s.colorMapType = 1)).toNat + 8 * gray.toNat + P % 8
      ∧ (s.colorMapType = 1 →
          t.job.entrySize = E ∧ t.job.fselEnt.toNat = 8 * gray.toNat + E % 8)
      ∧ (t.job.alphaOk = true ↔ s.attr.toNat < 256 ∨ 3 ≤ s.attr.toNat % 256)

/-- R81: LoadRaw: ShortRawData when the region holds fewer than N bytes, and otherwise RAW is the first N bytes of
the region and the walk begins at its first pixel. -/
def Obligations.LoadRawTakesTheFirstBytes : Prop :=
  ∀ s : State, s.status = .busy → s.phase = .loadRaw → s.srcDisturbed = false →
    s.job.dataStart ≤ s.dataEnd.toNat →
    (s.dataEnd.toNat < s.job.dataStart + s.job.expected →
      ∃ t, engineTurn s = .next t ∧ endedWith s .shortRawData t)
    ∧ (s.job.dataStart + s.job.expected ≤ s.dataEnd.toNat →
      ∃ t, engineTurn s = .next t
        ∧ t = { s with raw := t.raw, phase := .resolve, destRow := 0, x := 0 }
        ∧ t.out = s.job.expected
        ∧ ∀ a, a < s.job.expected → t.raw[a]? = some (s.srcByte (s.job.dataStart + a)))

/-- R84, R85: the error entry: STATE = ERROR, ERR the kind's code, every register and memory unchanged, DST reads
undefined, and no further step of the job. -/
def Obligations.ErrorEntryReportsTheCode : Prop :=
  (∀ (s : State) (e : JobError), s.srcDisturbed = false →
    endedWith s e (s.raise e) ∧ engineTurn (s.raise e) = .next (s.raise e)
    ∧ ∀ a, (s.raise e).dstByte a = none)
  ∧ errorCode .unsupportedColorMapType = 1 ∧ errorCode .unsupportedPixelDepth = 2
  ∧ errorCode .truncatedStream = 3 ∧ errorCode .unsupportedImageType = 4
  ∧ errorCode .shortRawData = 5 ∧ errorCode .paletteRange = 6 ∧ errorCode .configRange = 7

/-- R14: STATE's values are 0 to 3, a host write to STATUS is ignored, and STATE changes only as the rule lists: to BUSY
by a CTRL write with bit 0 set when not BUSY; from BUSY to DONE or ERROR in the engine's turn; to IDLE by reset.
For every state. -/
def Obligations.StateChangesOnlyAsListed : Prop :=
  (EngineState.idle.code = 0 ∧ EngineState.busy.code = 1 ∧ EngineState.done.code = 2 ∧ EngineState.error.code = 3)
  ∧ (∀ (s : State) (v : Word) (q : List HostEvent), s.hostQueue = .regWrite 0x04 .word v :: q →
      step s = .next { s with hostQueue := q })
  ∧ ∀ s t : State, step s = .next t → t.status ≠ s.status →
    (t.status = .busy ∧ s.status ≠ .busy
      ∧ ∃ v q, s.hostQueue = .regWrite 0x00 .word v :: q ∧ v[0] = true)
    ∨ (s.status = .busy ∧ (t.status = .done ∨ t.status = .error) ∧ engineMoves s)
    ∨ (t.status = .idle ∧ ∃ q, s.hostQueue = .reset :: q)

/-- R15, R85: ERR is 0 exactly when STATE ≠ ERROR, and its code is never above 7; every step keeps this. -/
def Obligations.ErrIsZeroOutsideError : Prop :=
  ∀ s t : State, (s.err = 0 ↔ s.status ≠ .error) → s.err.toNat ≤ 7 → step s = .next t →
    (t.err = 0 ↔ t.status ≠ .error) ∧ t.err.toNat ≤ 7

/-- R16, R80: a configuration register changes only by a host register write while STATE ≠ BUSY, or by reset; the
per-job quantities only in Derive, by reset, and by a START the output size alone; the parameters never. For every
state. -/
def Obligations.ConfigurationIsFixedDuringAJob : Prop :=
  ∀ s t : State, step s = .next t →
    t.caps = s.caps
    ∧ (t.config ≠ s.config → (∃ q, s.hostQueue = .reset :: q)
        ∨ (s.status ≠ .busy ∧ ∃ off v q, s.hostQueue = .regWrite off .word v :: q ∧ 0x08 ≤ off ∧ off ≤ 0x20))
    ∧ (t.job ≠ s.job → (∃ q, s.hostQueue = .reset :: q) ∨ (s.status = .busy ∧ s.phase = .derive)
        ∨ (s.status ≠ .busy ∧ (∃ v q, s.hostQueue = .regWrite 0x00 .word v :: q ∧ v[0] = true)
          ∧ t.job = { s.job with outLen := s.width * s.height * 4 }))

/-- R30: the engine never writes SRC: SRC changes only by a host write of a SRC byte, and then only at that
offset. For every state. -/
def Obligations.OnlyTheHostWritesSrc : Prop :=
  ∀ s t : State, step s = .next t → ∀ a, t.srcByte a ≠ s.srcByte a →
    ∃ b q, s.hostQueue = .srcWrite a b :: q ∧ t.srcByte a = b

/-! ### The host port -/

/-- R12: every RW register reads back what was written, without its reserved bits; STATUS and unmapped offsets ignore
writes; no other register, no memory and no STATUS changes; after reset every register reads 0. -/
def Obligations.RegistersReadBack : Prop :=
  (∀ (s : State) (off : Nat) (v : Word) (q : List HostEvent), s.status ≠ .busy → off % 4 = 0 → 4 ≤ off →
    off < 0x40 → s.hostQueue = .regWrite off .word v :: q →
    ∃ t, step s = .next t
      ∧ t.readReg off = (if off = 0x04 then s.statusWord else if off < 0x1C then v
          else if off = 0x1C then v &&& 0xFFFF else if off = 0x20 then v &&& 0x1FF else 0)
      ∧ (∀ o, o ≠ off → t.readReg o = s.readReg o)
      ∧ t = { s with hostQueue := q, srcLen := t.srcLen, dataEnd := t.dataEnd, dim := t.dim,
                     format := t.format, cmap := t.cmap, cmap2 := t.cmap2, attr := t.attr })
  ∧ ∀ (c : Capacities) (off : Nat), (State.resetWith c).readReg off = 0

/-- R33: an aligned 32-bit read returns the register, 0 at an unmapped offset; an unmapped write is ignored; any access that is
not an aligned 32-bit word is refused. -/
def Obligations.RegAccessForms : Prop :=
  ∀ (s : State) (off : Nat) (size : AccessSize) (v : Word) (q : List HostEvent),
    ((size ≠ .word ∨ off % 4 ≠ 0) →
      (s.hostQueue = .regRead off size :: q → step s = .refused (.regAccessForm off))
      ∧ (s.hostQueue = .regWrite off size v :: q → step s = .refused (.regAccessForm off)))
    ∧ (off % 4 = 0 → off < 0x40 →
      (s.hostQueue = .regRead off .word :: q →
        step s = .next { s with hostQueue := q, hostData := s.readReg off })
      ∧ (0x24 ≤ off → s.readReg off = 0
          ∧ (s.hostQueue = .regWrite off .word v :: q → step s = .next { s with hostQueue := q })))

/-- R101, R102: while BUSY every register write is dropped, a START too. -/
def Obligations.RegisterWritesWhileBusyAreDropped : Prop :=
  ∀ (s : State) (off : Nat) (v : Word) (q : List HostEvent), s.status = .busy → off % 4 = 0 → off < 0x40 →
    s.hostQueue = .regWrite off .word v :: q → step s = .next { s with hostQueue := q }

/-- R12, R14, R15: the STATUS word, which a poll returns when STATE ≠ BUSY: STATE in bits 1:0, ERR in bits 11:8, every
other bit 0. That a poll is one event, and that it returns at once outside BUSY, in IDLE too, where R100's host would
go on polling, is the model's choice (assumption 17), not a rule. -/
def Obligations.PollReturnsTheStatusWord : Prop :=
  ∀ (s : State) (q : List HostEvent), s.hostQueue = .poll :: q → s.status ≠ .busy →
    ∃ t, step s = .next t ∧ t = { s with hostQueue := q, hostData := t.hostData }
      ∧ t.hostData.toNat = s.status.code.toNat + 256 * s.err.toNat

/-- R98, R99: reset, in any state and BUSY too: STATUS 0, every register reads 0, SRC and the parameters unaffected,
and no DST byte defined. -/
def Obligations.ResetGivesTheResetTable : Prop :=
  ∀ (s : State) (q : List HostEvent), s.hostQueue = .reset :: q →
    ∃ t, step s = .next t ∧ t.status = .idle ∧ t.err = 0 ∧ (∀ off, t.readReg off = 0)
      ∧ t.config = (0, 0, 0, 0, 0, 0, 0)
      ∧ (∀ a, t.srcByte a = s.srcByte a) ∧ (∀ a, t.dstByte a = none)
      ∧ t.caps = s.caps ∧ t.hostQueue = q ∧ engineTurn t = .next t

/-- R32, R44, R104: a host read of DST returns the job's byte at DONE; before that, after an error, after reset and after
a job during which the host wrote SRC, at DONE too, it does not depend on any DST byte and any offset inside DST is
answered. In a state that meets the invariant every offset below the output size has its byte at an undisturbed DONE.
The free value is the model's own form of 'any value' (assumptions 2 and 3). -/
def Obligations.DstIsReadOnlyAtDone : Prop :=
  ∀ (s : State) (a : Nat) (q : List HostEvent), s.hostQueue = .dstRead a :: q →
    (∀ b, s.status = .done → s.srcDisturbed = false → a < s.job.outLen → a < s.caps.dst →
      Memory.read s.dst a = some b → step s = .next { s with hostQueue := q, hostData := b.setWidth 32 })
    ∧ (s.Inv → s.status = .done → s.srcDisturbed = false → a < s.job.outLen →
      a < s.caps.dst ∧ ∃ b, Memory.read s.dst a = some b)
    ∧ (s.status ≠ .done ∨ s.srcDisturbed = true →
      ∀ m, step { s with dst := m } = mapNext (fun t => { t with dst := m }) (step s))
    ∧ (s.status ≠ .done ∨ s.srcDisturbed = true → a < s.caps.dst → (s.status = .done → a < s.job.outLen) →
      step s = .next { s with hostQueue := q, hostData := (Config.freeByte s.draws).setWidth 32,
                              draws := s.draws + 1 })

/-- R29, R44: a host write of a SRC byte while STATE ≠ BUSY stores it. While BUSY, when R29 gives the host no SRC write, it
leaves the job's end open (R44): DONE, or ERROR with a code from 1 to 7, and then no DST byte is defined. That the byte
written while BUSY lands in SRC is the model's choice too (assumption 3, DEDUCED, unsafe), and the free outcome is its
form of R44 (assumption 3). -/
def Obligations.SrcWriteWhileBusyLeavesTheEndOpen : Prop :=
  (∀ (s : State) (a : Nat) (b : Byte) (q : List HostEvent), s.hostQueue = .srcWrite a b :: q → a < s.caps.src →
    ∃ t, step s = .next t ∧ t.srcByte a = b ∧ (∀ k, k ≠ a → t.srcByte k = s.srcByte k)
      ∧ t = { s with hostQueue := q, src := t.src, srcDisturbed := t.srcDisturbed }
      ∧ (t.srcDisturbed = true ↔ s.srcDisturbed = true ∨ s.status = .busy))
  ∧ (∀ (s : State) (r : Option JobError), s.srcDisturbed = true →
    s.endJob r = s.endJob (Config.freeOutcome s.draws)
    ∧ ((s.endJob r).status = .done ∧ (s.endJob r).err = 0
      ∨ (s.endJob r).status = .error ∧ 1 ≤ (s.endJob r).err.toNat ∧ (s.endJob r).err.toNat ≤ 7)
    ∧ ∀ a, (s.endJob r).dstByte a = none)

/-- R29: a host read of a SRC byte while STATE ≠ BUSY returns it; while BUSY, which R29 does not give the host, the
value is free (the model's form, assumption 2). Neither changes SRC. -/
def Obligations.SrcReadsReturnTheByte : Prop :=
  ∀ (s : State) (a : Nat) (q : List HostEvent), s.hostQueue = .srcRead a :: q → a < s.caps.src →
    (s.status ≠ .busy → step s = .next { s with hostQueue := q, hostData := (s.srcByte a).setWidth 32 })
    ∧ (s.status = .busy →
        step s = .next { s with hostQueue := q, hostData := (Config.freeByte s.draws).setWidth 32,
                                draws := s.draws + 1 })

/-- R12, R29: a host access past the end of a space faults by name: REG past 0x3C, SRC at or past SRC_CAPACITY, DST at or
past DST_CAPACITY, and at DONE at or past the job's W × H × 4 (the model's form, assumption 13). -/
def Obligations.AccessesOutsideTheSpacesFault : Prop :=
  ∀ (s : State) (a : Nat) (v : Word) (b : Byte) (q : List HostEvent),
    (a % 4 = 0 → 0x40 ≤ a →
      (s.hostQueue = .regRead a .word :: q → step s = .fault (.regNoSuchAddress a))
      ∧ (s.hostQueue = .regWrite a .word v :: q → step s = .fault (.regNoSuchAddress a)))
    ∧ (s.caps.src ≤ a →
      (s.hostQueue = .srcRead a :: q → step s = .fault (.srcNoSuchAddress a))
      ∧ (s.hostQueue = .srcWrite a b :: q → step s = .fault (.srcNoSuchAddress a)))
    ∧ (s.hostQueue = .dstRead a :: q →
      (s.status = .done → s.job.outLen ≤ a → step s = .fault (.dstNoSuchAddress a))
      ∧ (s.caps.dst ≤ a → step s = .fault (.dstNoSuchAddress a)))

/-! ### Whole jobs -/

/-- R7: every count, offset and address computation stays within the widths R7 gives. In every state: W, H, W × H, the
output size and the DATA_START that CheckConfig compares. In a configured job: N, the job's DATA_START, the end of the
raw data, of every palette entry, of every pixel and of every unit. In the packet loop of a state that meets the
invariant: `rd`, `out`, and where a packet of any count would take them. -/
def Obligations.CountersFitTheirWidths : Prop :=
  ∀ s : State,
    (s.width < 2 ^ 16 ∧ s.height < 2 ^ 16 ∧ s.width * s.height ≤ 4294836225
      ∧ s.width * s.height * 4 ≤ 17179344900 ∧ s.dataStartOf < 2 ^ 35
      ∧ s.srcLen.toNat < 2 ^ 32 ∧ s.dataEnd.toNat < 2 ^ 32)
    ∧ (s.configured →
      s.job.expected ≤ 17179344900 ∧ s.job.outLen ≤ 17179344900
      ∧ s.job.dataStart < 2 ^ 32 ∧ s.job.dataStart + s.job.expected < 2 ^ 35
      ∧ (∀ i, i < 65536 → s.entryOffset i + s.job.entrySize < 2 ^ 35)
      ∧ (∀ r c, r < s.height → c < s.width →
          s.pixelAddr r c + 4 < 2 ^ 35 ∧ s.unitOffset r c + s.job.unitSize < 2 ^ 35))
    ∧ (s.Inv → s.phase = .rle →
      s.rd < 2 ^ 32 ∧ s.out ≤ 17179344900
      ∧ ∀ n, n ≤ 128 → s.rd + 1 + n * s.job.unitSize < 2 ^ 35 ∧ s.out + n * s.job.unitSize < 2 ^ 35)

/-- The invariant holds right after reset, for all legal capacities. -/
def Obligations.ResetMeetsTheInvariant : Prop :=
  (∀ c : Capacities, c.legal → (State.resetWith c).Inv) ∧ State.reset.Inv

/-- Every step keeps the invariant, from every state that meets it. -/
def Obligations.EveryStepKeepsTheInvariant : Prop :=
  ∀ s t : State, s.Inv → step s = .next t → t.Inv

/-- R83: from a state that meets the invariant, the engine's turn always answers a next state: no job waits or
stops outside DONE and ERROR. -/
def Obligations.TheEngineNeverStops : Prop :=
  ∀ s : State, s.Inv → engineMoves s → ∃ t, step s = .next t

/-- R83: every job ends: from a BUSY state that meets the invariant, with the host waiting or polling, the engine
reaches DONE or ERROR after finitely many steps, and what the host was to do is still to do. That the host is a list of
events and a poll one of them is the model's form (assumptions 7 and 17). -/
def Obligations.EveryJobEnds : Prop :=
  ∀ s : State, s.Inv → s.status = .busy → hostWaits s.hostQueue →
    ∃ n t, Host.Core.run Sys2Proof.core n s = .next t ∧ (t.status = .done ∨ t.status = .error)
      ∧ t.hostQueue = s.hostQueue

/-- R30, R38: the engine never reads SRC at an offset past SRC_LEN, nor the 18 header bytes: what they hold never
reaches any other part of the state. -/
def Obligations.BytesOutsideTheFileNeverMatter : Prop :=
  ∀ (s : State) (m : Memory), s.Inv → engineMoves s →
    (∀ a, 18 ≤ a → a < s.srcLen.toNat → ({ s with src := m } : State).srcByte a = s.srcByte a) →
    step { s with src := m } = mapNext (fun t => { t with src := m }) (step s)

/-- R55, R79: a configuration that passes the checks with W = 0 or H = 0 decodes to an empty image, RLE or raw. -/
def Obligations.ZeroSizedImagesAreEmpty : Prop :=
  ∀ s : State, checkConfig s = none → s.width = 0 ∨ s.height = 0 → refJob s = .ok []

/-- R29, R31, R32, R44, R82: when a job reaches DONE, the output size that the job holds (`job.outLen`, held from START on:
the model's choice, assumption 13) is its W × H × 4, whether or not the host disturbed it and whatever CheckConfig said
of it. DST's size for a host read is the smaller of it and DST_CAPACITY (`State.dstSize`). When the host did not disturb
the job, W × H × 4 fits DST_CAPACITY and exactly those bytes are defined. -/
def Obligations.AtDoneEveryOutputByteIsDefined : Prop :=
  ∀ s t : State, s.Inv → step s = .next t → s.status = .busy → t.status = .done →
    t.job.outLen = t.width * t.height * 4
    ∧ (t.srcDisturbed = false → t.width * t.height * 4 ≤ t.caps.dst
      ∧ ∀ a, (t.dstByte a).isSome = true ↔ a < t.width * t.height * 4)

/-- R10, R78, R93, R100: THE HEADLINE. From every state that meets the invariant and is not BUSY, a START, after which
the host waits or polls (R100 steps 7 and 8), ends exactly as the reference semantics of the job says: DONE with its
bytes in DST, or ERROR with its code; and a poll then returns STATUS. The form is the model's: the host is a list of
events (assumption 7, DESIGN CHOICE), a poll is one event that lets the engine run and then returns STATUS (assumption
17, DESIGN CHOICE), and a host that does anything else while the job runs, which R10 does not shut out, is not covered
here. -/
def Obligations.JobsRefineTheReference : Prop :=
  ∀ (s : State) (v : Word) (q : List HostEvent), s.Inv → s.status ≠ .busy → v[0] = true →
    s.hostQueue = .regWrite 0x00 .word v :: q → hostWaits q →
    ∃ n t, Host.Core.run Sys2Proof.core n s = .next t ∧ t.config = s.config ∧ t.hostQueue = q
      ∧ (∀ r, q = .poll :: r → step t = .next { t with hostQueue := r, hostData := t.statusWord })
      ∧ (match refJob s with
         | .ok bs => t.status = .done ∧ t.err = 0 ∧ bs.length = s.width * s.height * 4
             ∧ ∀ a, t.dstByte a = bs[a]?
         | .error e => t.status = .error ∧ t.err = errorCode e)
end

