-- ==== Sys2Proof/Laws/State.lean ====
section
/-! SUPPORT. What each named update of the state leaves in each field, one lemma per field per update, so that no
later proof unfolds a record update. The updates that choose (the end of a job, the next pixel, a register
write) have their lemmas after the plain ones. -/

namespace Sys2Proof.Machine

/-! ### takeControl -/

@[simp] theorem takeControl_caps (s : State) : (s.takeControl).caps = s.caps := rfl
@[simp] theorem takeControl_status (s : State) : (s.takeControl).status = s.status := rfl
@[simp] theorem takeControl_err (s : State) : (s.takeControl).err = s.err := rfl
@[simp] theorem takeControl_srcLen (s : State) : (s.takeControl).srcLen = s.srcLen := rfl
@[simp] theorem takeControl_dataEnd (s : State) : (s.takeControl).dataEnd = s.dataEnd := rfl
@[simp] theorem takeControl_dim (s : State) : (s.takeControl).dim = s.dim := rfl
@[simp] theorem takeControl_format (s : State) : (s.takeControl).format = s.format := rfl
@[simp] theorem takeControl_cmap (s : State) : (s.takeControl).cmap = s.cmap := rfl
@[simp] theorem takeControl_cmap2 (s : State) : (s.takeControl).cmap2 = s.cmap2 := rfl
@[simp] theorem takeControl_attr (s : State) : (s.takeControl).attr = s.attr := rfl
@[simp] theorem takeControl_src (s : State) : (s.takeControl).src = s.src := rfl
@[simp] theorem takeControl_dst (s : State) : (s.takeControl).dst = s.dst := rfl
@[simp] theorem takeControl_phase (s : State) : (s.takeControl).phase = s.phase := rfl
@[simp] theorem takeControl_job (s : State) : (s.takeControl).job = s.job := rfl
@[simp] theorem takeControl_raw (s : State) : (s.takeControl).raw = s.raw := rfl
@[simp] theorem takeControl_rd (s : State) : (s.takeControl).rd = s.rd + 1 := rfl
@[simp] theorem takeControl_destRow (s : State) : (s.takeControl).destRow = s.destRow := rfl
@[simp] theorem takeControl_x (s : State) : (s.takeControl).x = s.x := rfl
@[simp] theorem takeControl_unit (s : State) : (s.takeControl).unit = s.unit := rfl
@[simp] theorem takeControl_rgba (s : State) : (s.takeControl).rgba = s.rgba := rfl
@[simp] theorem takeControl_hostQueue (s : State) : (s.takeControl).hostQueue = s.hostQueue := rfl
@[simp] theorem takeControl_hostData (s : State) : (s.takeControl).hostData = s.hostData := rfl
@[simp] theorem takeControl_srcDisturbed (s : State) : (s.takeControl).srcDisturbed = s.srcDisturbed := rfl
@[simp] theorem takeControl_draws (s : State) : (s.takeControl).draws = s.draws := rfl

/-! ### produce -/

@[simp] theorem produce_caps (s : State) (n : Nat) (bs : List Byte) : (s.produce n bs).caps = s.caps := rfl
@[simp] theorem produce_status (s : State) (n : Nat) (bs : List Byte) : (s.produce n bs).status = s.status := rfl
@[simp] theorem produce_err (s : State) (n : Nat) (bs : List Byte) : (s.produce n bs).err = s.err := rfl
@[simp] theorem produce_srcLen (s : State) (n : Nat) (bs : List Byte) : (s.produce n bs).srcLen = s.srcLen := rfl
@[simp] theorem produce_dataEnd (s : State) (n : Nat) (bs : List Byte) : (s.produce n bs).dataEnd = s.dataEnd := rfl
@[simp] theorem produce_dim (s : State) (n : Nat) (bs : List Byte) : (s.produce n bs).dim = s.dim := rfl
@[simp] theorem produce_format (s : State) (n : Nat) (bs : List Byte) : (s.produce n bs).format = s.format := rfl
@[simp] theorem produce_cmap (s : State) (n : Nat) (bs : List Byte) : (s.produce n bs).cmap = s.cmap := rfl
@[simp] theorem produce_cmap2 (s : State) (n : Nat) (bs : List Byte) : (s.produce n bs).cmap2 = s.cmap2 := rfl
@[simp] theorem produce_attr (s : State) (n : Nat) (bs : List Byte) : (s.produce n bs).attr = s.attr := rfl
@[simp] theorem produce_src (s : State) (n : Nat) (bs : List Byte) : (s.produce n bs).src = s.src := rfl
@[simp] theorem produce_dst (s : State) (n : Nat) (bs : List Byte) : (s.produce n bs).dst = s.dst := rfl
@[simp] theorem produce_phase (s : State) (n : Nat) (bs : List Byte) : (s.produce n bs).phase = s.phase := rfl
@[simp] theorem produce_job (s : State) (n : Nat) (bs : List Byte) : (s.produce n bs).job = s.job := rfl
@[simp] theorem produce_raw (s : State) (n : Nat) (bs : List Byte) : (s.produce n bs).raw = s.raw ++ bs := rfl
@[simp] theorem produce_rd (s : State) (n : Nat) (bs : List Byte) : (s.produce n bs).rd = s.rd + n := rfl
@[simp] theorem produce_destRow (s : State) (n : Nat) (bs : List Byte) : (s.produce n bs).destRow = s.destRow := rfl
@[simp] theorem produce_x (s : State) (n : Nat) (bs : List Byte) : (s.produce n bs).x = s.x := rfl
@[simp] theorem produce_unit (s : State) (n : Nat) (bs : List Byte) : (s.produce n bs).unit = s.unit := rfl
@[simp] theorem produce_rgba (s : State) (n : Nat) (bs : List Byte) : (s.produce n bs).rgba = s.rgba := rfl
@[simp] theorem produce_hostQueue (s : State) (n : Nat) (bs : List Byte) : (s.produce n bs).hostQueue = s.hostQueue := rfl
@[simp] theorem produce_hostData (s : State) (n : Nat) (bs : List Byte) : (s.produce n bs).hostData = s.hostData := rfl
@[simp] theorem produce_srcDisturbed (s : State) (n : Nat) (bs : List Byte) : (s.produce n bs).srcDisturbed = s.srcDisturbed := rfl
@[simp] theorem produce_draws (s : State) (n : Nat) (bs : List Byte) : (s.produce n bs).draws = s.draws := rfl

/-! ### latchUnit -/

@[simp] theorem latchUnit_caps (s : State) : (s.latchUnit).caps = s.caps := rfl
@[simp] theorem latchUnit_status (s : State) : (s.latchUnit).status = s.status := rfl
@[simp] theorem latchUnit_err (s : State) : (s.latchUnit).err = s.err := rfl
@[simp] theorem latchUnit_srcLen (s : State) : (s.latchUnit).srcLen = s.srcLen := rfl
@[simp] theorem latchUnit_dataEnd (s : State) : (s.latchUnit).dataEnd = s.dataEnd := rfl
@[simp] theorem latchUnit_dim (s : State) : (s.latchUnit).dim = s.dim := rfl
@[simp] theorem latchUnit_format (s : State) : (s.latchUnit).format = s.format := rfl
@[simp] theorem latchUnit_cmap (s : State) : (s.latchUnit).cmap = s.cmap := rfl
@[simp] theorem latchUnit_cmap2 (s : State) : (s.latchUnit).cmap2 = s.cmap2 := rfl
@[simp] theorem latchUnit_attr (s : State) : (s.latchUnit).attr = s.attr := rfl
@[simp] theorem latchUnit_src (s : State) : (s.latchUnit).src = s.src := rfl
@[simp] theorem latchUnit_dst (s : State) : (s.latchUnit).dst = s.dst := rfl
@[simp] theorem latchUnit_phase (s : State) : (s.latchUnit).phase = s.phase := rfl
@[simp] theorem latchUnit_job (s : State) : (s.latchUnit).job = s.job := rfl
@[simp] theorem latchUnit_raw (s : State) : (s.latchUnit).raw = s.raw := rfl
@[simp] theorem latchUnit_rd (s : State) : (s.latchUnit).rd = s.rd := rfl
@[simp] theorem latchUnit_destRow (s : State) : (s.latchUnit).destRow = s.destRow := rfl
@[simp] theorem latchUnit_x (s : State) : (s.latchUnit).x = s.x := rfl
@[simp] theorem latchUnit_unit (s : State) : (s.latchUnit).unit = (s.raw.drop (s.unitOffset s.destRow s.x)).take s.job.unitSize := rfl
@[simp] theorem latchUnit_rgba (s : State) : (s.latchUnit).rgba = s.rgba := rfl
@[simp] theorem latchUnit_hostQueue (s : State) : (s.latchUnit).hostQueue = s.hostQueue := rfl
@[simp] theorem latchUnit_hostData (s : State) : (s.latchUnit).hostData = s.hostData := rfl
@[simp] theorem latchUnit_srcDisturbed (s : State) : (s.latchUnit).srcDisturbed = s.srcDisturbed := rfl
@[simp] theorem latchUnit_draws (s : State) : (s.latchUnit).draws = s.draws := rfl

/-! ### writePixel -/

@[simp] theorem writePixel_caps (s : State) (q : Rgba) : (s.writePixel q).caps = s.caps := rfl
@[simp] theorem writePixel_status (s : State) (q : Rgba) : (s.writePixel q).status = s.status := rfl
@[simp] theorem writePixel_err (s : State) (q : Rgba) : (s.writePixel q).err = s.err := rfl
@[simp] theorem writePixel_srcLen (s : State) (q : Rgba) : (s.writePixel q).srcLen = s.srcLen := rfl
@[simp] theorem writePixel_dataEnd (s : State) (q : Rgba) : (s.writePixel q).dataEnd = s.dataEnd := rfl
@[simp] theorem writePixel_dim (s : State) (q : Rgba) : (s.writePixel q).dim = s.dim := rfl
@[simp] theorem writePixel_format (s : State) (q : Rgba) : (s.writePixel q).format = s.format := rfl
@[simp] theorem writePixel_cmap (s : State) (q : Rgba) : (s.writePixel q).cmap = s.cmap := rfl
@[simp] theorem writePixel_cmap2 (s : State) (q : Rgba) : (s.writePixel q).cmap2 = s.cmap2 := rfl
@[simp] theorem writePixel_attr (s : State) (q : Rgba) : (s.writePixel q).attr = s.attr := rfl
@[simp] theorem writePixel_src (s : State) (q : Rgba) : (s.writePixel q).src = s.src := rfl
@[simp] theorem writePixel_dst (s : State) (q : Rgba) : (s.writePixel q).dst = Memory.writeBytes s.dst (s.pixelAddr s.destRow s.x) (Rgba.bytes q) := rfl
@[simp] theorem writePixel_phase (s : State) (q : Rgba) : (s.writePixel q).phase = s.phase := rfl
@[simp] theorem writePixel_job (s : State) (q : Rgba) : (s.writePixel q).job = s.job := rfl
@[simp] theorem writePixel_raw (s : State) (q : Rgba) : (s.writePixel q).raw = s.raw := rfl
@[simp] theorem writePixel_rd (s : State) (q : Rgba) : (s.writePixel q).rd = s.rd := rfl
@[simp] theorem writePixel_destRow (s : State) (q : Rgba) : (s.writePixel q).destRow = s.destRow := rfl
@[simp] theorem writePixel_x (s : State) (q : Rgba) : (s.writePixel q).x = s.x := rfl
@[simp] theorem writePixel_unit (s : State) (q : Rgba) : (s.writePixel q).unit = s.unit := rfl
@[simp] theorem writePixel_rgba (s : State) (q : Rgba) : (s.writePixel q).rgba = q := rfl
@[simp] theorem writePixel_hostQueue (s : State) (q : Rgba) : (s.writePixel q).hostQueue = s.hostQueue := rfl
@[simp] theorem writePixel_hostData (s : State) (q : Rgba) : (s.writePixel q).hostData = s.hostData := rfl
@[simp] theorem writePixel_srcDisturbed (s : State) (q : Rgba) : (s.writePixel q).srcDisturbed = s.srcDisturbed := rfl
@[simp] theorem writePixel_draws (s : State) (q : Rgba) : (s.writePixel q).draws = s.draws := rfl

/-! ### answerHost -/

@[simp] theorem answerHost_caps (s : State) (v : Word) : (s.answerHost v).caps = s.caps := rfl
@[simp] theorem answerHost_status (s : State) (v : Word) : (s.answerHost v).status = s.status := rfl
@[simp] theorem answerHost_err (s : State) (v : Word) : (s.answerHost v).err = s.err := rfl
@[simp] theorem answerHost_srcLen (s : State) (v : Word) : (s.answerHost v).srcLen = s.srcLen := rfl
@[simp] theorem answerHost_dataEnd (s : State) (v : Word) : (s.answerHost v).dataEnd = s.dataEnd := rfl
@[simp] theorem answerHost_dim (s : State) (v : Word) : (s.answerHost v).dim = s.dim := rfl
@[simp] theorem answerHost_format (s : State) (v : Word) : (s.answerHost v).format = s.format := rfl
@[simp] theorem answerHost_cmap (s : State) (v : Word) : (s.answerHost v).cmap = s.cmap := rfl
@[simp] theorem answerHost_cmap2 (s : State) (v : Word) : (s.answerHost v).cmap2 = s.cmap2 := rfl
@[simp] theorem answerHost_attr (s : State) (v : Word) : (s.answerHost v).attr = s.attr := rfl
@[simp] theorem answerHost_src (s : State) (v : Word) : (s.answerHost v).src = s.src := rfl
@[simp] theorem answerHost_dst (s : State) (v : Word) : (s.answerHost v).dst = s.dst := rfl
@[simp] theorem answerHost_phase (s : State) (v : Word) : (s.answerHost v).phase = s.phase := rfl
@[simp] theorem answerHost_job (s : State) (v : Word) : (s.answerHost v).job = s.job := rfl
@[simp] theorem answerHost_raw (s : State) (v : Word) : (s.answerHost v).raw = s.raw := rfl
@[simp] theorem answerHost_rd (s : State) (v : Word) : (s.answerHost v).rd = s.rd := rfl
@[simp] theorem answerHost_destRow (s : State) (v : Word) : (s.answerHost v).destRow = s.destRow := rfl
@[simp] theorem answerHost_x (s : State) (v : Word) : (s.answerHost v).x = s.x := rfl
@[simp] theorem answerHost_unit (s : State) (v : Word) : (s.answerHost v).unit = s.unit := rfl
@[simp] theorem answerHost_rgba (s : State) (v : Word) : (s.answerHost v).rgba = s.rgba := rfl
@[simp] theorem answerHost_hostQueue (s : State) (v : Word) : (s.answerHost v).hostQueue = s.hostQueue := rfl
@[simp] theorem answerHost_hostData (s : State) (v : Word) : (s.answerHost v).hostData = v := rfl
@[simp] theorem answerHost_srcDisturbed (s : State) (v : Word) : (s.answerHost v).srcDisturbed = s.srcDisturbed := rfl
@[simp] theorem answerHost_draws (s : State) (v : Word) : (s.answerHost v).draws = s.draws := rfl

/-! ### answerFree -/

@[simp] theorem answerFree_caps (s : State) : (s.answerFree).caps = s.caps := rfl
@[simp] theorem answerFree_status (s : State) : (s.answerFree).status = s.status := rfl
@[simp] theorem answerFree_err (s : State) : (s.answerFree).err = s.err := rfl
@[simp] theorem answerFree_srcLen (s : State) : (s.answerFree).srcLen = s.srcLen := rfl
@[simp] theorem answerFree_dataEnd (s : State) : (s.answerFree).dataEnd = s.dataEnd := rfl
@[simp] theorem answerFree_dim (s : State) : (s.answerFree).dim = s.dim := rfl
@[simp] theorem answerFree_format (s : State) : (s.answerFree).format = s.format := rfl
@[simp] theorem answerFree_cmap (s : State) : (s.answerFree).cmap = s.cmap := rfl
@[simp] theorem answerFree_cmap2 (s : State) : (s.answerFree).cmap2 = s.cmap2 := rfl
@[simp] theorem answerFree_attr (s : State) : (s.answerFree).attr = s.attr := rfl
@[simp] theorem answerFree_src (s : State) : (s.answerFree).src = s.src := rfl
@[simp] theorem answerFree_dst (s : State) : (s.answerFree).dst = s.dst := rfl
@[simp] theorem answerFree_phase (s : State) : (s.answerFree).phase = s.phase := rfl
@[simp] theorem answerFree_job (s : State) : (s.answerFree).job = s.job := rfl
@[simp] theorem answerFree_raw (s : State) : (s.answerFree).raw = s.raw := rfl
@[simp] theorem answerFree_rd (s : State) : (s.answerFree).rd = s.rd := rfl
@[simp] theorem answerFree_destRow (s : State) : (s.answerFree).destRow = s.destRow := rfl
@[simp] theorem answerFree_x (s : State) : (s.answerFree).x = s.x := rfl
@[simp] theorem answerFree_unit (s : State) : (s.answerFree).unit = s.unit := rfl
@[simp] theorem answerFree_rgba (s : State) : (s.answerFree).rgba = s.rgba := rfl
@[simp] theorem answerFree_hostQueue (s : State) : (s.answerFree).hostQueue = s.hostQueue := rfl
@[simp] theorem answerFree_hostData (s : State) : (s.answerFree).hostData = (Config.freeByte s.draws).setWidth 32 := rfl
@[simp] theorem answerFree_srcDisturbed (s : State) : (s.answerFree).srcDisturbed = s.srcDisturbed := rfl
@[simp] theorem answerFree_draws (s : State) : (s.answerFree).draws = s.draws + 1 := rfl

/-! ### hostStore -/

@[simp] theorem hostStore_caps (s : State) (a : Nat) (b : Byte) : (s.hostStore a b).caps = s.caps := rfl
@[simp] theorem hostStore_status (s : State) (a : Nat) (b : Byte) : (s.hostStore a b).status = s.status := rfl
@[simp] theorem hostStore_err (s : State) (a : Nat) (b : Byte) : (s.hostStore a b).err = s.err := rfl
@[simp] theorem hostStore_srcLen (s : State) (a : Nat) (b : Byte) : (s.hostStore a b).srcLen = s.srcLen := rfl
@[simp] theorem hostStore_dataEnd (s : State) (a : Nat) (b : Byte) : (s.hostStore a b).dataEnd = s.dataEnd := rfl
@[simp] theorem hostStore_dim (s : State) (a : Nat) (b : Byte) : (s.hostStore a b).dim = s.dim := rfl
@[simp] theorem hostStore_format (s : State) (a : Nat) (b : Byte) : (s.hostStore a b).format = s.format := rfl
@[simp] theorem hostStore_cmap (s : State) (a : Nat) (b : Byte) : (s.hostStore a b).cmap = s.cmap := rfl
@[simp] theorem hostStore_cmap2 (s : State) (a : Nat) (b : Byte) : (s.hostStore a b).cmap2 = s.cmap2 := rfl
@[simp] theorem hostStore_attr (s : State) (a : Nat) (b : Byte) : (s.hostStore a b).attr = s.attr := rfl
@[simp] theorem hostStore_src (s : State) (a : Nat) (b : Byte) : (s.hostStore a b).src = Memory.write s.src a b := rfl
@[simp] theorem hostStore_dst (s : State) (a : Nat) (b : Byte) : (s.hostStore a b).dst = s.dst := rfl
@[simp] theorem hostStore_phase (s : State) (a : Nat) (b : Byte) : (s.hostStore a b).phase = s.phase := rfl
@[simp] theorem hostStore_job (s : State) (a : Nat) (b : Byte) : (s.hostStore a b).job = s.job := rfl
@[simp] theorem hostStore_raw (s : State) (a : Nat) (b : Byte) : (s.hostStore a b).raw = s.raw := rfl
@[simp] theorem hostStore_rd (s : State) (a : Nat) (b : Byte) : (s.hostStore a b).rd = s.rd := rfl
@[simp] theorem hostStore_destRow (s : State) (a : Nat) (b : Byte) : (s.hostStore a b).destRow = s.destRow := rfl
@[simp] theorem hostStore_x (s : State) (a : Nat) (b : Byte) : (s.hostStore a b).x = s.x := rfl
@[simp] theorem hostStore_unit (s : State) (a : Nat) (b : Byte) : (s.hostStore a b).unit = s.unit := rfl
@[simp] theorem hostStore_rgba (s : State) (a : Nat) (b : Byte) : (s.hostStore a b).rgba = s.rgba := rfl
@[simp] theorem hostStore_hostQueue (s : State) (a : Nat) (b : Byte) : (s.hostStore a b).hostQueue = s.hostQueue := rfl
@[simp] theorem hostStore_hostData (s : State) (a : Nat) (b : Byte) : (s.hostStore a b).hostData = s.hostData := rfl
@[simp] theorem hostStore_srcDisturbed (s : State) (a : Nat) (b : Byte) : (s.hostStore a b).srcDisturbed = (s.srcDisturbed || decide (s.status = .busy)) := rfl
@[simp] theorem hostStore_draws (s : State) (a : Nat) (b : Byte) : (s.hostStore a b).draws = s.draws := rfl

/-! ### beginJob -/

@[simp] theorem beginJob_caps (s : State) : (s.beginJob).caps = s.caps := rfl
@[simp] theorem beginJob_status (s : State) : (s.beginJob).status = .busy := rfl
@[simp] theorem beginJob_err (s : State) : (s.beginJob).err = 0 := rfl
@[simp] theorem beginJob_srcLen (s : State) : (s.beginJob).srcLen = s.srcLen := rfl
@[simp] theorem beginJob_dataEnd (s : State) : (s.beginJob).dataEnd = s.dataEnd := rfl
@[simp] theorem beginJob_dim (s : State) : (s.beginJob).dim = s.dim := rfl
@[simp] theorem beginJob_format (s : State) : (s.beginJob).format = s.format := rfl
@[simp] theorem beginJob_cmap (s : State) : (s.beginJob).cmap = s.cmap := rfl
@[simp] theorem beginJob_cmap2 (s : State) : (s.beginJob).cmap2 = s.cmap2 := rfl
@[simp] theorem beginJob_attr (s : State) : (s.beginJob).attr = s.attr := rfl
@[simp] theorem beginJob_src (s : State) : (s.beginJob).src = s.src := rfl
@[simp] theorem beginJob_dst (s : State) : (s.beginJob).dst = [] := rfl
@[simp] theorem beginJob_phase (s : State) : (s.beginJob).phase = .checkConfig := rfl
@[simp] theorem beginJob_job (s : State) :
    (s.beginJob).job = { s.job with outLen := s.width * s.height * 4 } := rfl
@[simp] theorem beginJob_raw (s : State) : (s.beginJob).raw = s.raw := rfl
@[simp] theorem beginJob_rd (s : State) : (s.beginJob).rd = s.rd := rfl
@[simp] theorem beginJob_destRow (s : State) : (s.beginJob).destRow = s.destRow := rfl
@[simp] theorem beginJob_x (s : State) : (s.beginJob).x = s.x := rfl
@[simp] theorem beginJob_unit (s : State) : (s.beginJob).unit = s.unit := rfl
@[simp] theorem beginJob_rgba (s : State) : (s.beginJob).rgba = s.rgba := rfl
@[simp] theorem beginJob_hostQueue (s : State) : (s.beginJob).hostQueue = s.hostQueue := rfl
@[simp] theorem beginJob_hostData (s : State) : (s.beginJob).hostData = s.hostData := rfl
@[simp] theorem beginJob_srcDisturbed (s : State) : (s.beginJob).srcDisturbed = false := rfl
@[simp] theorem beginJob_draws (s : State) : (s.beginJob).draws = s.draws := rfl

/-! ### beginResolve -/

@[simp] theorem beginResolve_caps (s : State) : (s.beginResolve).caps = s.caps := rfl
@[simp] theorem beginResolve_status (s : State) : (s.beginResolve).status = s.status := rfl
@[simp] theorem beginResolve_err (s : State) : (s.beginResolve).err = s.err := rfl
@[simp] theorem beginResolve_srcLen (s : State) : (s.beginResolve).srcLen = s.srcLen := rfl
@[simp] theorem beginResolve_dataEnd (s : State) : (s.beginResolve).dataEnd = s.dataEnd := rfl
@[simp] theorem beginResolve_dim (s : State) : (s.beginResolve).dim = s.dim := rfl
@[simp] theorem beginResolve_format (s : State) : (s.beginResolve).format = s.format := rfl
@[simp] theorem beginResolve_cmap (s : State) : (s.beginResolve).cmap = s.cmap := rfl
@[simp] theorem beginResolve_cmap2 (s : State) : (s.beginResolve).cmap2 = s.cmap2 := rfl
@[simp] theorem beginResolve_attr (s : State) : (s.beginResolve).attr = s.attr := rfl
@[simp] theorem beginResolve_src (s : State) : (s.beginResolve).src = s.src := rfl
@[simp] theorem beginResolve_dst (s : State) : (s.beginResolve).dst = s.dst := rfl
@[simp] theorem beginResolve_phase (s : State) : (s.beginResolve).phase = .resolve := rfl
@[simp] theorem beginResolve_job (s : State) : (s.beginResolve).job = s.job := rfl
@[simp] theorem beginResolve_raw (s : State) : (s.beginResolve).raw = s.raw := rfl
@[simp] theorem beginResolve_rd (s : State) : (s.beginResolve).rd = s.rd := rfl
@[simp] theorem beginResolve_destRow (s : State) : (s.beginResolve).destRow = 0 := rfl
@[simp] theorem beginResolve_x (s : State) : (s.beginResolve).x = 0 := rfl
@[simp] theorem beginResolve_unit (s : State) : (s.beginResolve).unit = s.unit := rfl
@[simp] theorem beginResolve_rgba (s : State) : (s.beginResolve).rgba = s.rgba := rfl
@[simp] theorem beginResolve_hostQueue (s : State) : (s.beginResolve).hostQueue = s.hostQueue := rfl
@[simp] theorem beginResolve_hostData (s : State) : (s.beginResolve).hostData = s.hostData := rfl
@[simp] theorem beginResolve_srcDisturbed (s : State) : (s.beginResolve).srcDisturbed = s.srcDisturbed := rfl
@[simp] theorem beginResolve_draws (s : State) : (s.beginResolve).draws = s.draws := rfl

/-! ### stepDerive -/

@[simp] theorem stepDerive_caps (s : State) : (stepDerive s).caps = s.caps := rfl
@[simp] theorem stepDerive_status (s : State) : (stepDerive s).status = s.status := rfl
@[simp] theorem stepDerive_err (s : State) : (stepDerive s).err = s.err := rfl
@[simp] theorem stepDerive_srcLen (s : State) : (stepDerive s).srcLen = s.srcLen := rfl
@[simp] theorem stepDerive_dataEnd (s : State) : (stepDerive s).dataEnd = s.dataEnd := rfl
@[simp] theorem stepDerive_dim (s : State) : (stepDerive s).dim = s.dim := rfl
@[simp] theorem stepDerive_format (s : State) : (stepDerive s).format = s.format := rfl
@[simp] theorem stepDerive_cmap (s : State) : (stepDerive s).cmap = s.cmap := rfl
@[simp] theorem stepDerive_cmap2 (s : State) : (stepDerive s).cmap2 = s.cmap2 := rfl
@[simp] theorem stepDerive_attr (s : State) : (stepDerive s).attr = s.attr := rfl
@[simp] theorem stepDerive_src (s : State) : (stepDerive s).src = s.src := rfl
@[simp] theorem stepDerive_dst (s : State) : (stepDerive s).dst = s.dst := rfl
@[simp] theorem stepDerive_phase (s : State) : (stepDerive s).phase = if s.isRle then .rle else .loadRaw := rfl
@[simp] theorem stepDerive_job (s : State) : (stepDerive s).job = s.deriveJob := rfl
@[simp] theorem stepDerive_raw (s : State) : (stepDerive s).raw = [] := rfl
@[simp] theorem stepDerive_rd (s : State) : (stepDerive s).rd = s.dataStartOf := rfl
@[simp] theorem stepDerive_destRow (s : State) : (stepDerive s).destRow = s.destRow := rfl
@[simp] theorem stepDerive_x (s : State) : (stepDerive s).x = s.x := rfl
@[simp] theorem stepDerive_unit (s : State) : (stepDerive s).unit = s.unit := rfl
@[simp] theorem stepDerive_rgba (s : State) : (stepDerive s).rgba = s.rgba := rfl
@[simp] theorem stepDerive_hostQueue (s : State) : (stepDerive s).hostQueue = s.hostQueue := rfl
@[simp] theorem stepDerive_hostData (s : State) : (stepDerive s).hostData = s.hostData := rfl
@[simp] theorem stepDerive_srcDisturbed (s : State) : (stepDerive s).srcDisturbed = s.srcDisturbed := rfl
@[simp] theorem stepDerive_draws (s : State) : (stepDerive s).draws = s.draws := rfl

/-! ### The end of a job -/

@[simp] theorem endJob_caps (s : State) (r : Option JobError) : (s.endJob r).caps = s.caps := by
  unfold State.endJob; split <;> rfl
@[simp] theorem endJob_srcLen (s : State) (r : Option JobError) : (s.endJob r).srcLen = s.srcLen := by
  unfold State.endJob; split <;> rfl
@[simp] theorem endJob_dataEnd (s : State) (r : Option JobError) : (s.endJob r).dataEnd = s.dataEnd := by
  unfold State.endJob; split <;> rfl
@[simp] theorem endJob_dim (s : State) (r : Option JobError) : (s.endJob r).dim = s.dim := by
  unfold State.endJob; split <;> rfl
@[simp] theorem endJob_format (s : State) (r : Option JobError) : (s.endJob r).format = s.format := by
  unfold State.endJob; split <;> rfl
@[simp] theorem endJob_cmap (s : State) (r : Option JobError) : (s.endJob r).cmap = s.cmap := by
  unfold State.endJob; split <;> rfl
@[simp] theorem endJob_cmap2 (s : State) (r : Option JobError) : (s.endJob r).cmap2 = s.cmap2 := by
  unfold State.endJob; split <;> rfl
@[simp] theorem endJob_attr (s : State) (r : Option JobError) : (s.endJob r).attr = s.attr := by
  unfold State.endJob; split <;> rfl
@[simp] theorem endJob_src (s : State) (r : Option JobError) : (s.endJob r).src = s.src := by
  unfold State.endJob; split <;> rfl
@[simp] theorem endJob_dst (s : State) (r : Option JobError) : (s.endJob r).dst = s.dst := by
  unfold State.endJob; split <;> rfl
@[simp] theorem endJob_job (s : State) (r : Option JobError) : (s.endJob r).job = s.job := by
  unfold State.endJob; split <;> rfl
@[simp] theorem endJob_raw (s : State) (r : Option JobError) : (s.endJob r).raw = s.raw := by
  unfold State.endJob; split <;> rfl
@[simp] theorem endJob_rd (s : State) (r : Option JobError) : (s.endJob r).rd = s.rd := by
  unfold State.endJob; split <;> rfl
@[simp] theorem endJob_destRow (s : State) (r : Option JobError) : (s.endJob r).destRow = s.destRow := by
  unfold State.endJob; split <;> rfl
@[simp] theorem endJob_x (s : State) (r : Option JobError) : (s.endJob r).x = s.x := by
  unfold State.endJob; split <;> rfl
@[simp] theorem endJob_unit (s : State) (r : Option JobError) : (s.endJob r).unit = s.unit := by
  unfold State.endJob; split <;> rfl
@[simp] theorem endJob_rgba (s : State) (r : Option JobError) : (s.endJob r).rgba = s.rgba := by
  unfold State.endJob; split <;> rfl
@[simp] theorem endJob_hostQueue (s : State) (r : Option JobError) : (s.endJob r).hostQueue = s.hostQueue := by
  unfold State.endJob; split <;> rfl
@[simp] theorem endJob_hostData (s : State) (r : Option JobError) : (s.endJob r).hostData = s.hostData := by
  unfold State.endJob; split <;> rfl
@[simp] theorem endJob_srcDisturbed (s : State) (r : Option JobError) : (s.endJob r).srcDisturbed = s.srcDisturbed := by
  unfold State.endJob; split <;> rfl
@[simp] theorem endJob_phase (s : State) (r : Option JobError) : (s.endJob r).phase = .noJob := by
  unfold State.endJob; split <;> rfl
@[simp] theorem endJob_draws (s : State) (r : Option JobError) : (s.endJob r).draws = s.draws + 1 := by
  unfold State.endJob; split <;> rfl

/-! ### The next pixel -/

@[simp] theorem nextPixel_caps (s : State) : s.nextPixel.caps = s.caps := by
  unfold State.nextPixel; split <;> rfl
@[simp] theorem nextPixel_status (s : State) : s.nextPixel.status = s.status := by
  unfold State.nextPixel; split <;> rfl
@[simp] theorem nextPixel_err (s : State) : s.nextPixel.err = s.err := by
  unfold State.nextPixel; split <;> rfl
@[simp] theorem nextPixel_srcLen (s : State) : s.nextPixel.srcLen = s.srcLen := by
  unfold State.nextPixel; split <;> rfl
@[simp] theorem nextPixel_dataEnd (s : State) : s.nextPixel.dataEnd = s.dataEnd := by
  unfold State.nextPixel; split <;> rfl
@[simp] theorem nextPixel_dim (s : State) : s.nextPixel.dim = s.dim := by
  unfold State.nextPixel; split <;> rfl
@[simp] theorem nextPixel_format (s : State) : s.nextPixel.format = s.format := by
  unfold State.nextPixel; split <;> rfl
@[simp] theorem nextPixel_cmap (s : State) : s.nextPixel.cmap = s.cmap := by
  unfold State.nextPixel; split <;> rfl
@[simp] theorem nextPixel_cmap2 (s : State) : s.nextPixel.cmap2 = s.cmap2 := by
  unfold State.nextPixel; split <;> rfl
@[simp] theorem nextPixel_attr (s : State) : s.nextPixel.attr = s.attr := by
  unfold State.nextPixel; split <;> rfl
@[simp] theorem nextPixel_src (s : State) : s.nextPixel.src = s.src := by
  unfold State.nextPixel; split <;> rfl
@[simp] theorem nextPixel_dst (s : State) : s.nextPixel.dst = s.dst := by
  unfold State.nextPixel; split <;> rfl
@[simp] theorem nextPixel_phase (s : State) : s.nextPixel.phase = s.phase := by
  unfold State.nextPixel; split <;> rfl
@[simp] theorem nextPixel_job (s : State) : s.nextPixel.job = s.job := by
  unfold State.nextPixel; split <;> rfl
@[simp] theorem nextPixel_raw (s : State) : s.nextPixel.raw = s.raw := by
  unfold State.nextPixel; split <;> rfl
@[simp] theorem nextPixel_rd (s : State) : s.nextPixel.rd = s.rd := by
  unfold State.nextPixel; split <;> rfl
@[simp] theorem nextPixel_unit (s : State) : s.nextPixel.unit = s.unit := by
  unfold State.nextPixel; split <;> rfl
@[simp] theorem nextPixel_rgba (s : State) : s.nextPixel.rgba = s.rgba := by
  unfold State.nextPixel; split <;> rfl
@[simp] theorem nextPixel_hostQueue (s : State) : s.nextPixel.hostQueue = s.hostQueue := by
  unfold State.nextPixel; split <;> rfl
@[simp] theorem nextPixel_hostData (s : State) : s.nextPixel.hostData = s.hostData := by
  unfold State.nextPixel; split <;> rfl
@[simp] theorem nextPixel_srcDisturbed (s : State) : s.nextPixel.srcDisturbed = s.srcDisturbed := by
  unfold State.nextPixel; split <;> rfl
@[simp] theorem nextPixel_draws (s : State) : s.nextPixel.draws = s.draws := by
  unfold State.nextPixel; split <;> rfl
theorem nextPixel_x (s : State) : s.nextPixel.x = if s.x + 1 < s.width then s.x + 1 else 0 := by
  unfold State.nextPixel; split <;> rfl
theorem nextPixel_destRow (s : State) :
    s.nextPixel.destRow = if s.x + 1 < s.width then s.destRow else s.destRow + 1 := by
  unfold State.nextPixel; split <;> rfl

/-! ### A register write: what it can never change -/

@[simp] theorem writeReg_caps (s : State) (off : Nat) (v : Word) : (s.writeReg off v).caps = s.caps := by
  unfold State.writeReg; repeat' split
  all_goals rfl
@[simp] theorem writeReg_status (s : State) (off : Nat) (v : Word) : (s.writeReg off v).status = s.status := by
  unfold State.writeReg; repeat' split
  all_goals rfl
@[simp] theorem writeReg_err (s : State) (off : Nat) (v : Word) : (s.writeReg off v).err = s.err := by
  unfold State.writeReg; repeat' split
  all_goals rfl
@[simp] theorem writeReg_src (s : State) (off : Nat) (v : Word) : (s.writeReg off v).src = s.src := by
  unfold State.writeReg; repeat' split
  all_goals rfl
@[simp] theorem writeReg_dst (s : State) (off : Nat) (v : Word) : (s.writeReg off v).dst = s.dst := by
  unfold State.writeReg; repeat' split
  all_goals rfl
@[simp] theorem writeReg_phase (s : State) (off : Nat) (v : Word) : (s.writeReg off v).phase = s.phase := by
  unfold State.writeReg; repeat' split
  all_goals rfl
@[simp] theorem writeReg_job (s : State) (off : Nat) (v : Word) : (s.writeReg off v).job = s.job := by
  unfold State.writeReg; repeat' split
  all_goals rfl
@[simp] theorem writeReg_raw (s : State) (off : Nat) (v : Word) : (s.writeReg off v).raw = s.raw := by
  unfold State.writeReg; repeat' split
  all_goals rfl
@[simp] theorem writeReg_rd (s : State) (off : Nat) (v : Word) : (s.writeReg off v).rd = s.rd := by
  unfold State.writeReg; repeat' split
  all_goals rfl
@[simp] theorem writeReg_destRow (s : State) (off : Nat) (v : Word) : (s.writeReg off v).destRow = s.destRow := by
  unfold State.writeReg; repeat' split
  all_goals rfl
@[simp] theorem writeReg_x (s : State) (off : Nat) (v : Word) : (s.writeReg off v).x = s.x := by
  unfold State.writeReg; repeat' split
  all_goals rfl
@[simp] theorem writeReg_unit (s : State) (off : Nat) (v : Word) : (s.writeReg off v).unit = s.unit := by
  unfold State.writeReg; repeat' split
  all_goals rfl
@[simp] theorem writeReg_rgba (s : State) (off : Nat) (v : Word) : (s.writeReg off v).rgba = s.rgba := by
  unfold State.writeReg; repeat' split
  all_goals rfl
@[simp] theorem writeReg_hostQueue (s : State) (off : Nat) (v : Word) : (s.writeReg off v).hostQueue = s.hostQueue := by
  unfold State.writeReg; repeat' split
  all_goals rfl
@[simp] theorem writeReg_hostData (s : State) (off : Nat) (v : Word) : (s.writeReg off v).hostData = s.hostData := by
  unfold State.writeReg; repeat' split
  all_goals rfl
@[simp] theorem writeReg_srcDisturbed (s : State) (off : Nat) (v : Word) : (s.writeReg off v).srcDisturbed = s.srcDisturbed := by
  unfold State.writeReg; repeat' split
  all_goals rfl
@[simp] theorem writeReg_draws (s : State) (off : Nat) (v : Word) : (s.writeReg off v).draws = s.draws := by
  unfold State.writeReg; repeat' split
  all_goals rfl
theorem writeReg_busy (s : State) (off : Nat) (v : Word) (h : s.status = .busy) : s.writeReg off v = s := by
  simp [State.writeReg, h]

/-! ### Reset -/

@[simp] theorem hostReset_caps (s : State) : s.hostReset.caps = s.caps := rfl
@[simp] theorem hostReset_status (s : State) : s.hostReset.status = (State.resetWith s.caps).status := rfl
@[simp] theorem hostReset_err (s : State) : s.hostReset.err = (State.resetWith s.caps).err := rfl
@[simp] theorem hostReset_srcLen (s : State) : s.hostReset.srcLen = (State.resetWith s.caps).srcLen := rfl
@[simp] theorem hostReset_dataEnd (s : State) : s.hostReset.dataEnd = (State.resetWith s.caps).dataEnd := rfl
@[simp] theorem hostReset_dim (s : State) : s.hostReset.dim = (State.resetWith s.caps).dim := rfl
@[simp] theorem hostReset_format (s : State) : s.hostReset.format = (State.resetWith s.caps).format := rfl
@[simp] theorem hostReset_cmap (s : State) : s.hostReset.cmap = (State.resetWith s.caps).cmap := rfl
@[simp] theorem hostReset_cmap2 (s : State) : s.hostReset.cmap2 = (State.resetWith s.caps).cmap2 := rfl
@[simp] theorem hostReset_attr (s : State) : s.hostReset.attr = (State.resetWith s.caps).attr := rfl
@[simp] theorem hostReset_src (s : State) : s.hostReset.src = s.src := rfl
@[simp] theorem hostReset_dst (s : State) : s.hostReset.dst = (State.resetWith s.caps).dst := rfl
@[simp] theorem hostReset_phase (s : State) : s.hostReset.phase = (State.resetWith s.caps).phase := rfl
@[simp] theorem hostReset_job (s : State) : s.hostReset.job = (State.resetWith s.caps).job := rfl
@[simp] theorem hostReset_raw (s : State) : s.hostReset.raw = (State.resetWith s.caps).raw := rfl
@[simp] theorem hostReset_rd (s : State) : s.hostReset.rd = (State.resetWith s.caps).rd := rfl
@[simp] theorem hostReset_destRow (s : State) : s.hostReset.destRow = (State.resetWith s.caps).destRow := rfl
@[simp] theorem hostReset_x (s : State) : s.hostReset.x = (State.resetWith s.caps).x := rfl
@[simp] theorem hostReset_unit (s : State) : s.hostReset.unit = (State.resetWith s.caps).unit := rfl
@[simp] theorem hostReset_rgba (s : State) : s.hostReset.rgba = (State.resetWith s.caps).rgba := rfl
@[simp] theorem hostReset_hostQueue (s : State) : s.hostReset.hostQueue = s.hostQueue := rfl
@[simp] theorem hostReset_hostData (s : State) : s.hostReset.hostData = s.hostData := rfl
@[simp] theorem hostReset_srcDisturbed (s : State) : s.hostReset.srcDisturbed = (State.resetWith s.caps).srcDisturbed := rfl
@[simp] theorem hostReset_draws (s : State) : s.hostReset.draws = s.draws := rfl

end Sys2Proof.Machine
end

