-- ==== Sys2Proof/Laws/Ops.lean ====
section
/-! SUPPORT. For each shared operation, once, what it can do: the end of a job, the decoder's and the resolver's
operations, CheckConfig, and whose turn a step is. -/

namespace Sys2Proof.Machine

/-! ### The end of a job -/

theorem errorCode_range (e : JobError) : 1 ≤ (errorCode e).toNat ∧ (errorCode e).toNat ≤ 7 := by
  cases e <;> decide

theorem errorCode_ne_zero (e : JobError) : errorCode e ≠ 0 := by cases e <;> decide

/-- A job ends in DONE, or in ERROR with a code, and nothing else of the state changes but its place and the
draw counter. -/
theorem endJob_cases (s : State) (r : Option JobError) :
    s.endJob r = { s with status := .done, err := 0, phase := .noJob, draws := s.draws + 1 }
    ∨ ∃ e, endedWith s e (s.endJob r) := by
  unfold State.endJob endedWith
  split
  · exact .inl rfl
  · exact .inr ⟨_, rfl⟩

/-- The error entry of an undisturbed job (R84). -/
theorem raise_endedWith (s : State) (e : JobError) (h : s.srcDisturbed = false) : endedWith s e (s.raise e) := by
  simp [State.raise, State.endJob, State.jobResult, h, endedWith]

/-- The end of an undisturbed job without error (R82). -/
theorem complete_eq (s : State) (h : s.srcDisturbed = false) :
    s.complete = { s with status := .done, err := 0, phase := .noJob, draws := s.draws + 1 } := by
  simp [State.complete, State.endJob, State.jobResult, h]

/-- The end of a disturbed job does not depend on what the reference semantics says (R44). -/
theorem endJob_disturbed (s : State) (r r' : Option JobError) (h : s.srcDisturbed = true) :
    s.endJob r = s.endJob r' := by
  simp [State.endJob, State.jobResult, h]

/-! ### SRC reads -/

@[simp] theorem srcBytes_length (s : State) (a n : Nat) : (s.srcBytes a n).length = n := by simp [State.srcBytes]

theorem srcBytes_getElem? (s : State) (a n j : Nat) (h : j < n) :
    (s.srcBytes a n)[j]? = some (s.srcByte (a + j)) := by
  simp [State.srcBytes, List.getElem?_map, List.getElem?_range h]

/-- Reads of SRC agree when the bytes do. -/
theorem srcBytes_congr {s t : State} {a n : Nat} (h : ∀ j, j < n → s.srcByte (a + j) = t.srcByte (a + j)) :
    s.srcBytes a n = t.srcBytes a n := by
  simp only [State.srcBytes]
  exact List.map_congr_left fun j hj => h j (List.mem_range.1 hj)

theorem srcByte_hostStore_same (s : State) (a : Nat) (b : Byte) : (s.hostStore a b).srcByte a = b := by
  simp [State.srcByte]

theorem srcByte_hostStore_other (s : State) (a k : Nat) (b : Byte) (h : k ≠ a) :
    (s.hostStore a b).srcByte k = s.srcByte k := by
  simp [State.srcByte, Memory.read_write_other _ _ _ _ h]

/-! ### Decoding -/

/-- A CTRL write is a START exactly when its bit 0 is set (R53). -/
theorem decodeStart_eq (v : Word) :
    decodeStart v = if v[0] = true then .ok (.start v) else .error (.notStart v) := by
  have h : v &&& 1 = 1 ↔ v[0] = true := by
    constructor
    · intro h
      simpa using congrArg (fun x => x[0]) h
    · intro h
      ext k hk
      simp only [BitVec.getElem_and]
      rcases k with _ | k
      · simpa using h
      · simp [BitVec.getElem_one]
  simp only [decodeStart, h]

/-- Bit 7 of a control byte selects its packet (R47). -/
theorem decodeControl_eq (cb : Byte) :
    decodeControl cb = if cb[7] = true then .run (packetCount cb) else .raw (packetCount cb) := by
  revert cb; decide

/-- The count of a control byte is 1 to 128 (R48). -/
theorem packetCount_range (cb : Byte) : 1 ≤ packetCount cb ∧ packetCount cb ≤ 128 := by
  revert cb; decide

/-- What a control byte written by R54 decodes to. -/
theorem decodeControl_controlByte (isRun : Bool) (n : Nat) (h : 1 ≤ n ∧ n ≤ 128) :
    decodeControl (controlByte isRun n) = if isRun then .run n else .raw n := by
  have key : ∀ m : Fin 128, ∀ b,
      decodeControl (controlByte b (m.val + 1)) = if b then .run (m.val + 1) else .raw (m.val + 1) := by
    decide
  have := key ⟨n - 1, by omega⟩ isRun
  simpa [show n - 1 + 1 = n by omega] using this

/-! ### Packets -/

/-- What the packet operation answers, in its three cases (R59, R60). -/
theorem packetEffect_cases (count need : Nat) (bs : List Byte) (s : State) :
    ((s.job.expected < s.out + count * s.job.unitSize ∨ s.dataEnd.toNat < s.rd + need)
      ∧ packetEffect count need bs s = s.raise .truncatedStream)
    ∨ (s.out + count * s.job.unitSize ≤ s.job.expected ∧ s.rd + need ≤ s.dataEnd.toNat
      ∧ packetEffect count need bs s = s.produce need bs) := by
  unfold packetEffect
  by_cases h1 : s.job.expected < s.out + count * s.job.unitSize
  · simp [h1]
  · by_cases h2 : s.dataEnd.toNat < s.rd + need
    · simp [h1, h2]
    · simp [h1, h2]; omega

theorem packetEffect_fits {count need : Nat} {bs : List Byte} {s : State}
    (h1 : s.out + count * s.job.unitSize ≤ s.job.expected) (h2 : s.rd + need ≤ s.dataEnd.toNat) :
    packetEffect count need bs s = s.produce need bs := by
  simp [packetEffect, Nat.not_lt.2 h1, Nat.not_lt.2 h2]

theorem packetEffect_overshoots {count need : Nat} {bs : List Byte} {s : State}
    (h : s.job.expected < s.out + count * s.job.unitSize) :
    packetEffect count need bs s = s.raise .truncatedStream := by
  simp [packetEffect, h]

theorem packetEffect_short {count need : Nat} {bs : List Byte} {s : State}
    (h : s.dataEnd.toNat < s.rd + need) :
    packetEffect count need bs s = s.raise .truncatedStream := by
  simp [packetEffect, h]

/-- The bytes of `n` copies of a unit. -/
theorem replicate_flatten_getElem? (n j k : Nat) (u : List Byte) (hj : j < n) (hk : k < u.length) :
    (List.replicate n u).flatten[j * u.length + k]? = u[k]? := by
  induction n generalizing j with
  | zero => omega
  | succ n ih =>
    rw [List.replicate_succ, List.flatten_cons]
    cases j with
    | zero => rw [List.getElem?_append_left (by omega)]; simp
    | succ j =>
      have e : (j + 1) * u.length = u.length + j * u.length := by rw [Nat.succ_mul, Nat.add_comm]
      rw [List.getElem?_append_right (by omega), ← ih j (by omega)]
      congr 1
      omega

@[simp] theorem replicate_flatten_length (n : Nat) (u : List Byte) :
    (List.replicate n u).flatten.length = n * u.length := by simp

/-! ### The resolver -/

/-- A made quad is written to its place and nowhere else (R75). -/
theorem pixelWritten_emit (s : State) (q : Rgba) : pixelWritten s (s.writePixel q).nextPixel q := by
  have hin := fun j h => Memory.read_writeBytes_inside s.dst (s.pixelAddr s.destRow s.x) (Rgba.bytes q) j h
  have hout := fun k h => Memory.read_writeBytes_outside s.dst (s.pixelAddr s.destRow s.x) (Rgba.bytes q) k h
  simp only [Rgba.bytes, List.length_cons, List.length_nil] at hin hout
  refine ⟨by simp, ?_, ?_, ?_, ?_, ?_, ?_, ?_⟩
  · simpa [State.pixelAddr, Rgba.bytes] using hin 0 (by omega)
  · simpa [State.pixelAddr, Rgba.bytes] using hin 1 (by omega)
  · simpa [State.pixelAddr, Rgba.bytes] using hin 2 (by omega)
  · simpa [State.pixelAddr, Rgba.bytes] using hin 3 (by omega)
  · intro k hk
    simpa [State.pixelAddr, Rgba.bytes] using hout k (by simpa [State.pixelAddr] using hk)
  · rw [nextPixel_x, nextPixel_destRow]
    show (if s.x + 1 < s.width then s.destRow else s.destRow + 1,
      if s.x + 1 < s.width then s.x + 1 else 0) = _
    split <;> rfl
  · unfold State.nextPixel; split <;> rfl

theorem emit_quad (s : State) (q : Rgba) : ∃ t, s.emit (.quad q) = .next t ∧ pixelWritten s t q :=
  ⟨_, rfl, pixelWritten_emit s q⟩

/-- What a resolver operation answers: a pixel, the job's end, or the fault of a unit of the wrong length. -/
theorem emit_cases (s : State) (r : Resolved) :
    (∃ q, r = .quad q ∧ s.emit r = .next (s.writePixel q).nextPixel)
    ∨ (∃ e, r = .raises e ∧ s.emit r = .next (s.raise e))
    ∨ ∃ n, r = .badUnit n ∧ s.emit r = .fault (.unitLength n) := by
  cases r with
  | quad q => exact .inl ⟨q, rfl, rfl⟩
  | raises e => exact .inr (.inl ⟨e, rfl, rfl⟩)
  | badUnit n => exact .inr (.inr ⟨n, rfl, rfl⟩)

/-- Resolving reads the job, the palette and SRC_LEN, and nothing else of the state (R72). -/
theorem paletteEntry_congr {s t : State} (i : Nat) (hj : s.job = t.job) (hl : s.srcLen = t.srcLen)
    (hs : s.entryOffset i + s.job.entrySize ≤ s.srcLen.toNat →
      ∀ k, k < s.job.entrySize → s.srcByte (s.entryOffset i + k) = t.srcByte (s.entryOffset i + k)) :
    paletteEntry s i = paletteEntry t i := by
  have he : s.entryOffset i = t.entryOffset i := by simp [State.entryOffset, hj]
  unfold paletteEntry
  rw [← he, ← hl, ← hj]
  split
  · rfl
  · rw [srcBytes_congr (hs (by omega))]

/-! ### CheckConfig (R79) -/

/-- A configuration that passes, in words. -/
theorem checkConfig_none {s : State} (h : checkConfig s = none) :
    (s.colorMapType = 0 ∨ s.colorMapType = 1)
    ∧ [1, 2, 3, 9, 10, 11].contains s.imageType = true ∧ depthSupported s = true
    ∧ s.srcLen.toNat ≤ s.caps.src ∧ s.width * s.height * 4 ≤ s.caps.dst
    ∧ s.dataStartOf ≤ s.dataEnd.toNat ∧ s.dataEnd.toNat ≤ s.srcLen.toNat := by
  unfold checkConfig at h
  split at h
  · cases h
  · split at h
    · cases h
    · split at h
      · cases h
      · split at h
        · cases h
        next h1 h2 h3 h4 =>
          refine ⟨Decidable.not_not.1 h1, Decidable.not_not.1 h2, Decidable.not_not.1 h3, ?_⟩
          omega

/-- The depths of a configuration that passes. -/
theorem checkConfig_depths {s : State} (h : checkConfig s = none) :
    (s.indexed = true → (s.pixelDepth = 8 ∨ s.pixelDepth = 16)
      ∧ (s.cmEntryDepth = 8 ∨ s.cmEntryDepth = 15 ∨ s.cmEntryDepth = 16 ∨ s.cmEntryDepth = 24
        ∨ s.cmEntryDepth = 32))
    ∧ (s.indexed = false → s.pixelDepth = 8 ∨ s.pixelDepth = 15 ∨ s.pixelDepth = 16 ∨ s.pixelDepth = 24
        ∨ s.pixelDepth = 32) := by
  have hd := (checkConfig_none h).2.2.1
  unfold depthSupported at hd
  constructor <;> intro hi <;> simpa [hi] using hd

/-- CheckConfig and Derive read the parameters and the configuration registers, and nothing else (R79, R80). -/
theorem checkConfig_congr {s t : State} (hc : t.caps = s.caps) (hr : t.config = s.config) :
    checkConfig t = checkConfig s ∧ t.deriveJob = s.deriveJob := by
  cases s
  cases t
  simp only [State.config, Prod.mk.injEq] at hr hc
  obtain ⟨rfl, rfl, rfl, rfl, rfl, rfl, rfl⟩ := hr
  subst hc
  exact ⟨rfl, rfl⟩

/-- A state stays configured while its parameters, its registers and its job do. -/
theorem configured_congr {s t : State} (hc : t.caps = s.caps) (hr : t.config = s.config) (hj : t.job = s.job)
    (h : s.configured) : t.configured := by
  obtain ⟨h1, h2⟩ := checkConfig_congr hc hr
  exact ⟨h1.trans h.1, hj.trans (h.2.trans h2.symm)⟩

/-- A passing configuration has units of one to four bytes. -/
theorem unitSize_range {s : State} (h : s.configured) : 1 ≤ s.job.unitSize ∧ s.job.unitSize ≤ 4 := by
  have hp : s.job.unitSize = (s.pixelDepth + 7) / 8 := by rw [h.2]; rfl
  obtain ⟨h1, h2⟩ := checkConfig_depths h.1
  rcases hi : s.indexed
  · rcases h2 hi with h | h | h | h | h <;> omega
  · rcases (h1 hi).1 with h | h <;> omega

/-- A passing indexed configuration has palette entries of one to four bytes. -/
theorem entrySize_range {s : State} (h : s.configured) (hi : s.indexed = true) :
    1 ≤ s.job.entrySize ∧ s.job.entrySize ≤ 4 := by
  have hp : s.job.entrySize = (s.cmEntryDepth + 7) / 8 := by rw [h.2]; simp [State.deriveJob, hi, bytesOfBits]
  rcases ((checkConfig_depths h.1).1 hi).2 with h | h | h | h | h <;> omega

/-! ### The engine's turn -/

theorem engineTurn_busy {s : State} (h : s.status = .busy) : engineTurn s = turnBusy s := by
  simp [engineTurn, h]

theorem engineTurn_not_busy {s : State} (h : s.status ≠ .busy) : engineTurn s = .next s := by
  simp [engineTurn, h]

theorem engineTurn_rle {s : State} (h : s.status = .busy) (hp : s.phase = .rle) : engineTurn s = turnRle s := by
  rw [engineTurn_busy h]; unfold turnBusy; rw [hp]

theorem engineTurn_resolve {s : State} (h : s.status = .busy) (hp : s.phase = .resolve) :
    engineTurn s = turnResolve s := by
  rw [engineTurn_busy h]; unfold turnBusy; rw [hp]

/-- How many SRC bytes a control byte's packet has after it (R49). -/
def packetNeed (s : State) (cb : Byte) : Nat :=
  if cb[7] = true then s.job.unitSize else packetCount cb * s.job.unitSize

/-- The bytes a control byte's packet adds to RAW, its unit bytes at SRC offset `a` (R56, R57). -/
def packetBytes (s : State) (cb : Byte) (a : Nat) : List Byte :=
  if cb[7] = true then (List.replicate (packetCount cb) (s.srcBytes a s.job.unitSize)).flatten
  else s.srcBytes a (packetCount cb * s.job.unitSize)

theorem packetBytes_length (s : State) (cb : Byte) (a : Nat) :
    (packetBytes s cb a).length = packetCount cb * s.job.unitSize := by
  unfold packetBytes; split <;> simp

/-- The packet a control byte stands for, run over the state past it. -/
theorem exec_decodeControl (cb : Byte) (s : State) :
    exec (decodeControl cb) s = .next (packetEffect (packetCount cb) (packetNeed s cb) (packetBytes s cb s.rd) s) := by
  rw [decodeControl_eq]
  unfold packetNeed packetBytes
  split <;> rfl

/-- What a turn of the packet loop answers: the loop's end, the job's end in TruncatedStreamError, or a packet that
fits (R55 to R60). -/
theorem turnRle_cases (s : State) :
    (s.job.expected ≤ s.out ∧ turnRle s = .next s.beginResolve)
    ∨ (s.out < s.job.expected ∧ s.dataEnd.toNat ≤ s.rd ∧ turnRle s = .next (s.raise .truncatedStream))
    ∨ (s.out < s.job.expected ∧ s.rd < s.dataEnd.toNat
        ∧ (s.job.expected < s.out + packetCount (s.srcByte s.rd) * s.job.unitSize
          ∨ s.dataEnd.toNat < s.rd + 1 + packetNeed s (s.srcByte s.rd))
        ∧ turnRle s = .next (s.takeControl.raise .truncatedStream))
    ∨ (s.out < s.job.expected ∧ s.rd < s.dataEnd.toNat
        ∧ s.out + packetCount (s.srcByte s.rd) * s.job.unitSize ≤ s.job.expected
        ∧ s.rd + 1 + packetNeed s (s.srcByte s.rd) ≤ s.dataEnd.toNat
        ∧ turnRle s = .next (s.takeControl.produce (packetNeed s (s.srcByte s.rd))
            (packetBytes s (s.srcByte s.rd) (s.rd + 1)))) := by
  unfold turnRle
  by_cases h1 : s.job.expected ≤ s.out
  · exact .inl ⟨h1, if_pos h1⟩
  · rw [if_neg h1]
    by_cases h2 : s.dataEnd.toNat ≤ s.rd
    · exact .inr (.inl ⟨by omega, h2, if_pos h2⟩)
    · rw [if_neg h2, exec_decodeControl]
      rcases packetEffect_cases (packetCount (s.srcByte s.rd)) (packetNeed s.takeControl (s.srcByte s.rd))
        (packetBytes s.takeControl (s.srcByte s.rd) s.takeControl.rd) s.takeControl with ⟨c, e⟩ | ⟨c, d, e⟩
      · exact .inr (.inr (.inl ⟨by omega, by omega, c, congrArg _ e⟩))
      · exact .inr (.inr (.inr ⟨by omega, by omega, c, d, congrArg _ e⟩))

/-! ### The size of DST (R29) -/

/-- DST is never larger than DST_CAPACITY. -/
theorem dstSize_le_capacity (s : State) : s.dstSize ≤ s.caps.dst := by
  unfold State.dstSize
  split
  · exact Nat.min_le_right _ _
  · exact Nat.le_refl _

/-- A host read of DST stops past DST's size only, and otherwise returns the job's byte or a free value. -/
theorem hostDstRead_cases (a : Nat) (s : State) :
    (s.dstSize ≤ a ∧ hostDstRead a s = .fault (.dstNoSuchAddress a))
    ∨ (a < s.dstSize ∧ s.status = .done ∧ s.srcDisturbed = false
        ∧ ∃ b, Memory.read s.dst a = some b ∧ hostDstRead a s = .next (s.answerHost (b.setWidth 32)))
    ∨ (a < s.dstSize ∧ s.dstByte a = none ∧ hostDstRead a s = .next s.answerFree) := by
  unfold hostDstRead
  by_cases h : s.dstSize ≤ a
  · exact .inl ⟨h, if_pos h⟩
  · rw [if_neg h]
    cases hb : s.dstByte a with
    | none => exact .inr (.inr ⟨by omega, rfl, rfl⟩)
    | some b =>
      unfold State.dstByte at hb
      split at hb
      next hd => exact .inr (.inl ⟨by omega, hd.1, hd.2, b, hb, rfl⟩)
      next => cases hb

/-! ### Whose turn it is -/

/-- In the engine's turn a step is one turn of the engine. -/
theorem step_engine {s : State} (h : engineMoves s) : step s = engineTurn s.engineView := by
  rcases h with h | h | ⟨h, hb⟩
  · simp [step, State.engineView, h]
  · cases hq : s.hostQueue with
    | nil => simp [hq] at h
    | cons e q =>
      simp only [hq, List.head?_cons, Option.some.injEq] at h
      subst h
      simp [step, State.engineView, hq, hostTurn]
  · cases hq : s.hostQueue with
    | nil => simp [hq] at h
    | cons e q =>
      simp only [hq, List.head?_cons, Option.some.injEq] at h
      subst h
      have e1 : ({ s with hostQueue := .poll :: q } : State) = s := by rw [← hq]
      have e2 : s.engineView = s := by simp [State.engineView, hq]
      have e3 : step s = engineTurn { s with hostQueue := .poll :: q } := by
        unfold step
        rw [hq]
        exact if_pos hb
      rw [e3, e1, e2]

/-- The engine's view differs from the state in the host's queue alone. -/
theorem engineView_eq (s : State) : s.engineView = { s with hostQueue := s.engineView.hostQueue } := by
  unfold State.engineView; split <;> rfl

/-- While a job runs and the host waits or polls, a step is one turn of the engine and the host's queue stands. -/
theorem step_waiting {s : State} (hb : s.status = .busy) (hq : hostWaits s.hostQueue) : step s = engineTurn s := by
  rw [step_engine (hq.imp_right fun h => .inr ⟨h, hb⟩)]
  congr 1
  unfold State.engineView
  split
  next q hx =>
    rw [hx] at hq
    rcases hq with h | h <;> cases h
  next => rfl

/-- The invariant does not look at what the host does next. -/
theorem inv_hostQueue {s : State} (h : s.Inv) (q : List HostEvent) : ({ s with hostQueue := q } : State).Inv :=
  ⟨h.srcWf, h.dstWf, h.srcInside, h.capsLegal, h.errZero, h.errRange, h.busyPhase, h.outLenOk, h.phaseOk⟩

/-- A step is the engine's turn, or the host's event at the head of its queue. -/
theorem step_cases (s : State) :
    (engineMoves s ∧ step s = engineTurn s.engineView)
    ∨ ∃ e q, s.hostQueue = e :: q ∧ e ≠ .engineTurn ∧ ¬ (e = .poll ∧ s.status = .busy)
        ∧ step s = hostTurn e { s with hostQueue := q } := by
  by_cases h : engineMoves s
  · exact .inl ⟨h, step_engine h⟩
  · right
    cases hq : s.hostQueue with
    | nil => exact absurd (.inl hq) h
    | cons e q =>
      refine ⟨e, q, rfl, ?_, ?_, by simp [step, hq]⟩
      · rintro rfl
        exact h (.inr (.inl (by simp [hq])))
      · rintro ⟨rfl, hb⟩
        exact h (.inr (.inr ⟨by simp [hq], hb⟩))

end Sys2Proof.Machine
end

