-- ==== Sys2Proof/Laws/PerInstr.lean ====
section
/-! SUPPORT. A law of every instruction, one lemma per constructor: the word of a well-formed instruction fits the mask
and match of its row of spec/opcode_table.json (spec/30_encoding.md R47, R51, R53). -/

namespace Sys2Proof.Laws.TableMatch

/-- Whether an encoded object fits a mask and a match, in the width of its kind. -/
def fits (mask mtch : Nat) : Encoded → Prop
  | .control cb => cb &&& BitVec.ofNat 8 mask = BitVec.ofNat 8 mtch
  | .fsel f => f &&& BitVec.ofNat 8 mask = BitVec.ofNat 8 mtch
  | .ctrlWrite v => v &&& BitVec.ofNat 32 mask = BitVec.ofNat 32 mtch

/-- The mask and the match of an instruction's row, as spec/opcode_table.json gives them. -/
def row : Instr → Nat × Nat
  | .run _ => (0x80, 0x80)
  | .raw _ => (0x80, 0x00)
  | .gray8 _ => (0xF7, 0x01)
  | .gray16a => (0xFF, 0x0A)
  | .hc15 => (0xFF, 0x02)
  | .tc24 _ => (0xF7, 0x03)
  | .tc32 _ => (0xF7, 0x04)
  | .index8 _ => (0xF7, 0x11)
  | .index16 _ => (0xF7, 0x12)
  | .start _ => (0x00000001, 0x00000001)

/-- The word of a well-formed instruction fits its row. -/
def Statement (i : Instr) : Prop := i.wellFormed = true → fits (row i).1 (row i).2 (encode i)

theorem run (count : Nat) : Statement (.run count) := by
  intro h
  simp only [Instr.wellFormed, Bool.and_eq_true, decide_eq_true_eq] at h
  have key : ∀ m : Fin 128, fits 0x80 0x80 (encode (.run (m.val + 1))) := by unfold fits encode; decide
  have := key ⟨count - 1, by omega⟩
  rwa [show count - 1 + 1 = count by omega] at this

theorem raw (count : Nat) : Statement (.raw count) := by
  intro h
  simp only [Instr.wellFormed, Bool.and_eq_true, decide_eq_true_eq] at h
  have key : ∀ m : Fin 128, fits 0x80 0x00 (encode (.raw (m.val + 1))) := by unfold fits encode; decide
  have := key ⟨count - 1, by omega⟩
  rwa [show count - 1 + 1 = count by omega] at this

theorem gray8 (gray : Bool) : Statement (.gray8 gray) := by intro _; cases gray <;> rfl

theorem gray16a : Statement .gray16a := by intro _; rfl

theorem hc15 : Statement .hc15 := by intro _; rfl

theorem tc24 (gray : Bool) : Statement (.tc24 gray) := by intro _; cases gray <;> rfl

theorem tc32 (gray : Bool) : Statement (.tc32 gray) := by intro _; cases gray <;> rfl

theorem index8 (gray : Bool) : Statement (.index8 gray) := by intro _; cases gray <;> rfl

theorem index16 (gray : Bool) : Statement (.index16 gray) := by intro _; cases gray <;> rfl

theorem start (v : Word) : Statement (.start v) := by
  intro h
  simp only [Instr.wellFormed] at h
  show v &&& 1#32 = 1#32
  ext k hk
  rcases k with _ | k
  · simpa using h
  · simp [BitVec.getElem_one]

end Sys2Proof.Laws.TableMatch
end

