-- ==== Sys2Proof/Laws/Step.lean ====
section
/-! SUPPORT. What a step can do, said once: one inversion lemma for the engine's turn and one for the host's, from
which the invariants and the whole-machine rules follow by cases. -/

namespace Sys2Proof.Machine

/-- A selector never stands for a packet or a START. -/
theorem decodeFsel_format {f : Byte} {i : Instr} (h : decodeFsel f = .ok i) :
    (∃ g, i = .gray8 g) ∨ i = .gray16a ∨ i = .hc15 ∨ (∃ g, i = .tc24 g) ∨ (∃ g, i = .tc32 g)
      ∨ (∃ g, i = .index8 g) ∨ ∃ g, i = .index16 g := by
  unfold decodeFsel at h
  repeat' split at h
  all_goals cases h
  all_goals simp

/-- What a resolver operation resolves its latched unit to. -/
def resolvedBy (i : Instr) (s : State) : Resolved :=
  match i with
  | .gray8 _ => resolveGray8 s.unit
  | .gray16a => resolveGray16a s.unit
  | .hc15 => resolveHc15 s.unit
  | .tc24 _ => resolveTc24 s.unit
  | .tc32 _ => resolveTc32 s.job.alphaOk s.unit
  | .index8 _ => resolveIndex8 s s.unit
  | .index16 _ => resolveIndex16 s s.unit
  | .run _ => .badUnit 0
  | .raw _ => .badUnit 0
  | .start _ => .badUnit 0

/-- A resolver operation emits what it resolves. -/
theorem exec_format {f : Byte} {i : Instr} (h : decodeFsel f = .ok i) (s : State) :
    exec i s = s.emit (resolvedBy i s) := by
  rcases decodeFsel_format h with ⟨g, rfl⟩ | rfl | rfl | ⟨g, rfl⟩ | ⟨g, rfl⟩ | ⟨g, rfl⟩ | ⟨g, rfl⟩ <;> rfl

/-- THE ENGINE'S TURN: what a running job's step can answer. -/
theorem turn_cases {s t : State} (hb : s.status = .busy) (h : engineTurn s = .next t) :
    (s.phase = .noJob ∧ t = s)
    ∨ (s.phase ≠ .noJob ∧ ∃ r s', t = s'.endJob r ∧ (s' = s ∨ s' = s.takeControl ∨ s' = s.latchUnit)
        ∧ (r = none → s.phase = .complete ∧ s' = s))
    ∨ (s.phase = .checkConfig ∧ checkConfig s = none ∧ t = { s with phase := .derive })
    ∨ (s.phase = .derive ∧ t = stepDerive s)
    ∨ (s.phase = .rle ∧ s.job.expected ≤ s.out ∧ t = s.beginResolve)
    ∨ (s.phase = .rle ∧ s.out < s.job.expected ∧ s.rd < s.dataEnd.toNat
        ∧ s.out + packetCount (s.srcByte s.rd) * s.job.unitSize ≤ s.job.expected
        ∧ s.rd + 1 + packetNeed s (s.srcByte s.rd) ≤ s.dataEnd.toNat
        ∧ t = s.takeControl.produce (packetNeed s (s.srcByte s.rd))
            (packetBytes s (s.srcByte s.rd) (s.rd + 1)))
    ∨ (s.phase = .loadRaw ∧ s.job.expected ≤ s.dataEnd.toNat - s.job.dataStart
        ∧ t = { s with raw := s.srcBytes s.job.dataStart s.job.expected }.beginResolve)
    ∨ (s.phase = .resolve ∧ s.destRow < s.height ∧ s.x < s.width
        ∧ ∃ i q, decodeFsel s.job.fselImg = .ok i ∧ resolvedBy i s.latchUnit = .quad q
          ∧ t = (s.latchUnit.writePixel q).nextPixel)
    ∨ (s.phase = .resolve ∧ ¬ (s.destRow < s.height ∧ s.x < s.width) ∧ t = { s with phase := .complete }) := by
  rw [engineTurn_busy hb] at h
  unfold turnBusy at h
  split at h
  next hp => cases h; exact .inl ⟨hp, rfl⟩
  next hp =>
    cases h
    unfold stepCheckConfig
    split
    next e _ =>
      exact .inr (.inl ⟨by simp [hp], some e, s, rfl, .inl rfl, by simp⟩)
    next hc => exact .inr (.inr (.inl ⟨hp, hc, rfl⟩))
  next hp => cases h; exact .inr (.inr (.inr (.inl ⟨hp, rfl⟩)))
  next hp =>
    rcases turnRle_cases s with ⟨a, e⟩ | ⟨_, _, e⟩ | ⟨_, _, _, e⟩ | ⟨a, b, c, d, e⟩ <;> rw [e] at h <;> cases h
    · exact .inr (.inr (.inr (.inr (.inl ⟨hp, a, rfl⟩))))
    · exact .inr (.inl ⟨by simp [hp], _, _, rfl, .inl rfl, by simp⟩)
    · exact .inr (.inl ⟨by simp [hp], _, _, rfl, .inr (.inl rfl), by simp⟩)
    · exact .inr (.inr (.inr (.inr (.inr (.inl ⟨hp, a, b, c, d, rfl⟩)))))
  next hp =>
    cases h
    unfold stepLoadRaw
    split
    · exact .inr (.inl ⟨by simp [hp], _, _, rfl, .inl rfl, by simp⟩)
    next hn => exact .inr (.inr (.inr (.inr (.inr (.inr (.inl ⟨hp, by omega, rfl⟩))))))
  next hp =>
    unfold turnResolve at h
    split at h
    next hx =>
      split at h
      next i hi =>
        rw [exec_format hi] at h
        rcases emit_cases s.latchUnit (resolvedBy i s.latchUnit) with ⟨q, hq, e⟩ | ⟨e', hq, e⟩ | ⟨n, hq, e⟩
        · rw [e] at h
          cases h
          exact .inr (.inr (.inr (.inr (.inr (.inr (.inr (.inl ⟨hp, hx.1, hx.2, i, q, hi, hq, rfl⟩)))))))
        · rw [e] at h
          cases h
          exact .inr (.inl ⟨by simp [hp], _, _, rfl, .inr (.inr rfl), by simp⟩)
        · rw [e] at h
          cases h
      next =>
        cases h
        exact .inr (.inl ⟨by simp [hp], _, _, rfl, .inl rfl, by simp⟩)
    next hx =>
      cases h
      exact .inr (.inr (.inr (.inr (.inr (.inr (.inr (.inr ⟨hp, hx, rfl⟩)))))))
  next hp =>
    cases h
    exact .inr (.inl ⟨by simp [hp], none, s, rfl, .inl rfl, fun _ => ⟨hp, rfl⟩⟩)

/-- A register access that answers a next state is an aligned 32-bit word inside the REG space (R33). -/
theorem regAccess_next {off : Nat} {size : AccessSize} {k : Answer} {t : State}
    (h : regAccess off size k = .next t) : size = .word ∧ off % 4 = 0 ∧ off < 0x40 ∧ k = .next t := by
  unfold regAccess at h
  split at h
  · cases h
  next h1 =>
    split at h
    · cases h
    next h2 =>
      simp only [ne_eq, not_or, Decidable.not_not] at h1
      exact ⟨h1.1, h1.2, by omega, h⟩

/-- THE HOST'S TURN: what an event other than the engine's turn can answer. -/
theorem hostTurn_cases {e : HostEvent} {s t : State} (hne : e ≠ .engineTurn)
    (hnp : ¬ (e = .poll ∧ s.status = .busy)) (h : hostTurn e s = .next t) :
    (e = .reset ∧ t = s.hostReset)
    ∨ (∃ off v, e = .regWrite off .word v ∧ off % 4 = 0 ∧ off < 0x40 ∧ off ≠ 0 ∧ t = s.writeReg off v)
    ∨ (∃ v, e = .regWrite 0x00 .word v ∧ (t = s ∨ (v[0] = true ∧ s.status ≠ .busy ∧ t = s.beginJob)))
    ∨ (∃ v, t = s.answerHost v)
    ∨ t = s.answerFree
    ∨ ∃ a b, e = .srcWrite a b ∧ a < s.caps.src ∧ t = s.hostStore a b := by
  cases e with
  | reset => cases h; exact .inl ⟨rfl, rfl⟩
  | engineTurn => exact absurd rfl hne
  | poll =>
    simp only [hostTurn, if_neg (fun hb => hnp ⟨rfl, hb⟩)] at h
    cases h
    exact .inr (.inr (.inr (.inl ⟨_, rfl⟩)))
  | regRead off size =>
    obtain ⟨_, _, _, h⟩ := regAccess_next h
    cases h
    exact .inr (.inr (.inr (.inl ⟨_, rfl⟩)))
  | regWrite off size v =>
    obtain ⟨rfl, h1, h2, h'⟩ := regAccess_next h
    clear h
    rename' h' => h
    unfold hostRegWrite at h
    split at h
    next h0 =>
      subst h0
      refine .inr (.inr (.inl ⟨v, rfl, ?_⟩))
      rw [decodeStart_eq] at h
      by_cases hv : v[0] = true
      · simp only [if_pos hv, exec, execStart] at h
        rw [if_neg (by simp [hv])] at h
        split at h
        · cases h; exact .inl rfl
        next hb => cases h; exact .inr ⟨hv, hb, rfl⟩
      · simp only [if_neg hv] at h
        cases h
        exact .inl rfl
    next h0 => cases h; exact .inr (.inl ⟨off, v, rfl, h1, h2, h0, rfl⟩)
  | srcWrite a b =>
    simp only [hostTurn, hostSrcWrite] at h
    split at h
    · cases h
    · cases h
      exact .inr (.inr (.inr (.inr (.inr ⟨a, b, rfl, by omega, rfl⟩))))
  | srcRead a =>
    simp only [hostTurn, hostSrcRead] at h
    split at h
    · cases h
    · split at h
      · cases h; exact .inr (.inr (.inr (.inr (.inl rfl))))
      · cases h; exact .inr (.inr (.inr (.inl ⟨_, rfl⟩)))
  | dstRead a =>
    simp only [hostTurn, hostDstRead] at h
    split at h
    · cases h
    · split at h
      · cases h; exact .inr (.inr (.inr (.inl ⟨_, rfl⟩)))
      · cases h; exact .inr (.inr (.inr (.inr (.inl rfl))))

end Sys2Proof.Machine
end

