-- ==== Sys2Proof/Laws/Resolver.lean ====
section
/-! SUPPORT. Lemmas about the resolver and the walk over the pixels: what selectors, units and palette entries resolve
to in a configured job, one turn at a pixel, the order of the pixels, and how DST fills. -/

namespace Sys2Proof.Machine

/-! ### Selectors, alpha and channels -/

/-- A selector word as a number (R51). -/
theorem fselWord_toNat (idx gray : Bool) (n : Nat) :
    (fselWord idx gray n).toNat = 16 * idx.toNat + 8 * gray.toNat + n % 8 := by
  have key : ∀ x : BitVec 3, ∀ a b : Bool,
      (0#3 ++ BitVec.ofBool a ++ BitVec.ofBool b ++ x).toNat = 16 * a.toNat + 8 * b.toNat + x.toNat := by decide
  simpa [fselWord] using key (BitVec.ofNat 3 n) idx gray

/-- ALPHA_OK in terms of the whole ATTR register (R23). -/
theorem alphaHonored_iff (s : State) : s.alphaHonored = true ↔ s.attr.toNat < 256 ∨ 3 ≤ s.attr.toNat % 256 := by
  have key : ∀ a : BitVec 9, (!a[8] || decide (4 < (a.extractLsb' 0 8).toNat)
      || decide ((a.extractLsb' 0 8).toNat = 3) || decide ((a.extractLsb' 0 8).toNat = 4)) = true
      ↔ a.toNat < 256 ∨ 3 ≤ a.toNat % 256 := by decide
  exact key s.attr

/-- exp5 does not overflow its byte (R67). -/
theorem exp5_toNat (f : Nat) (h : f < 32) : (exp5 f).toNat = (255 * f + 15) / 31 := by
  simp [exp5]
  omega

/-- A unit of the size its direct selector names resolves to a colour, through the operation that the selector
decodes to (R63). -/
theorem direct_resolves (P : Nat) (g ok : Bool) (u : List Byte) (h1 : 1 ≤ P) (h2 : P ≤ 4) (hu : u.length = P) :
    ∃ i, decodeFsel (fselWord false g P) = .ok i
      ∧ resolveDirect ok (fselWord false g P) u = .quad (entryColour P g ok (fun k => u.getD k 0))
      ∧ ∀ s : State, s.unit = u → s.job.alphaOk = ok →
          resolvedBy i s = resolveDirect ok (fselWord false g P) u := by
  obtain rfl | rfl | rfl | rfl : P = 1 ∨ P = 2 ∨ P = 3 ∨ P = 4 := by omega
  · match u, hu with
    | [a], _ =>
      refine ⟨.gray8 g, by cases g <;> rfl, by cases g <;> rfl, fun s h h' => ?_⟩
      subst h'
      cases g <;> (simp only [resolvedBy, h]; rfl)
  · match u, hu with
    | [a, b], _ =>
      refine ⟨if g then .gray16a else .hc15, by cases g <;> rfl, by cases g <;> rfl, fun s h h' => ?_⟩
      subst h'
      cases g <;> (simp only [resolvedBy, h]; rfl)
  · match u, hu with
    | [a, b, c], _ =>
      refine ⟨.tc24 g, by cases g <;> rfl, by cases g <;> rfl, fun s h h' => ?_⟩
      subst h'
      cases g <;> (simp only [resolvedBy, h]; rfl)
  · match u, hu with
    | [a, b, c, d], _ =>
      refine ⟨.tc32 g, by cases g <;> rfl, by cases g <;> rfl, fun s h h' => ?_⟩
      subst h'
      cases g <;> (simp only [resolvedBy, h]; rfl)

/-! ### The palette -/

/-- The entry size and the entry selector of a configured indexed job (R80). -/
theorem configured_entry {s : State} (hc : s.configured) (hi : s.indexed = true) :
    s.job.entrySize = (s.cmEntryDepth + 7) / 8 ∧ s.job.fselEnt = fselWord false s.isGray s.job.entrySize := by
  have h : s.job.entrySize = (s.cmEntryDepth + 7) / 8 := by rw [hc.2]; simp [State.deriveJob, hi, bytesOfBits]
  refine ⟨h, ?_⟩
  rw [h, hc.2]
  simp [State.deriveJob, hi, bytesOfBits]

/-- A palette entry inside SRC resolves to its colour (R72). -/
theorem paletteEntry_inside {s : State} {i : Nat} (hc : s.configured) (hi : s.indexed = true)
    (h : s.entryOffset i + s.job.entrySize ≤ s.srcLen.toNat) :
    paletteEntry s i = .quad (entryColour s.job.entrySize s.isGray s.alphaHonored
      (fun k => s.srcByte (s.entryOffset i + k))) := by
  have hA : s.job.alphaOk = s.alphaHonored := by rw [hc.2]; rfl
  obtain ⟨h1, h2⟩ := entrySize_range hc hi
  unfold paletteEntry
  rw [if_neg (by omega), (configured_entry hc hi).2, hA, State.srcBytes]
  generalize s.job.entrySize = E at *
  rcases s.isGray
  all_goals
    obtain rfl | rfl | rfl | rfl : E = 1 ∨ E = 2 ∨ E = 3 ∨ E = 4 := by omega
    all_goals rfl

/-- A palette entry that would pass SRC_LEN raises PaletteRangeError (R73). -/
theorem paletteEntry_past {s : State} {i : Nat} (h : s.srcLen.toNat < s.entryOffset i + s.job.entrySize) :
    paletteEntry s i = .raises .paletteRange := if_pos h

/-- So in a configured indexed job a palette lookup gives a colour or raises PaletteRangeError. -/
theorem paletteEntry_cases {s : State} (i : Nat) (hc : s.configured) (hi : s.indexed = true) :
    (∃ q, paletteEntry s i = .quad q) ∨ paletteEntry s i = .raises .paletteRange := by
  by_cases h : s.srcLen.toNat < s.entryOffset i + s.job.entrySize
  · exact .inr (paletteEntry_past h)
  · exact .inl ⟨_, paletteEntry_inside hc hi (by omega)⟩

/-! ### One pixel -/

/-- In a configured job the image selector decodes to an operation that resolves a unit of P bytes as the reference
semantics does, to a colour or to PaletteRangeError. -/
theorem unit_resolves {s : State} (hc : s.configured) (u : List Byte) (hu : u.length = s.job.unitSize)
    (hl : s.unit = u) :
    ∃ i, decodeFsel s.job.fselImg = .ok i ∧ resolvedBy i s = refResolveUnit s s.job u
      ∧ ((∃ q, resolvedBy i s = .quad q) ∨ resolvedBy i s = .raises .paletteRange) := by
  have hF : s.job.fselImg = fselWord s.indexed s.isGray s.job.unitSize := by rw [hc.2]; rfl
  obtain ⟨u1, u2⟩ := unitSize_range hc
  unfold refResolveUnit
  rw [hF]
  rcases hi : s.indexed
  · obtain ⟨i, a, b, d⟩ := direct_resolves _ s.isGray s.job.alphaOk u u1 u2 hu
    refine ⟨i, a, ?_, .inl ⟨entryColour s.job.unitSize s.isGray s.job.alphaOk fun k => u.getD k 0, ?_⟩⟩
    · simp only [Bool.false_eq_true, if_false]
      exact d s hl rfl
    · rw [d s hl rfl, b]
  · have hp : s.job.unitSize = (s.pixelDepth + 7) / 8 := by rw [hc.2]; rfl
    have h12 : s.job.unitSize = 1 ∨ s.job.unitSize = 2 := by
      rcases ((checkConfig_depths hc.1).1 hi).1 with h | h <;> omega
    rcases h12 with h | h <;> rw [h] at hu ⊢
    · match u, hu with
      | [a], _ =>
        refine ⟨.index8 s.isGray, by rcases s.isGray <;> rfl, ?_, ?_⟩
        · simp only [resolvedBy, hl, if_true]; rfl
        · simp only [resolvedBy, hl, resolveIndex8]
          exact paletteEntry_cases _ hc hi
    · match u, hu with
      | [a, b], _ =>
        refine ⟨.index16 s.isGray, by rcases s.isGray <;> rfl, ?_, ?_⟩
        · simp only [resolvedBy, hl, if_true]; rfl
        · simp only [resolvedBy, hl, resolveIndex16]
          exact paletteEntry_cases _ hc hi

/-- The unit of an in-range pixel lies inside RAW (R75). -/
theorem unit_inside {s : State} (hc : s.configured) {r c : Nat} (hr : r < s.height) (hx : c < s.width) :
    s.unitOffset r c + s.job.unitSize ≤ s.job.expected := by
  have hN : s.job.expected = s.width * s.height * s.job.unitSize := by rw [hc.2]; rfl
  have hs : s.srcRow r < s.height := by unfold State.srcRow; split <;> omega
  have h1 : (s.srcRow r + 1) * s.width ≤ s.height * s.width := Nat.mul_le_mul_right _ hs
  rw [Nat.succ_mul, Nat.mul_comm s.height] at h1
  have h2 := Nat.mul_le_mul_right s.job.unitSize (show s.srcRow r * s.width + c + 1 ≤ s.width * s.height by omega)
  rwa [Nat.succ_mul, ← hN] at h2

/-- The latched unit of an in-range pixel has P bytes. -/
theorem latchUnit_length {s : State} (hc : s.configured) (ho : s.out = s.job.expected)
    (hr : s.destRow < s.height) (hx : s.x < s.width) : s.latchUnit.unit.length = s.job.unitSize := by
  have h := unit_inside hc hr hx
  simp only [State.out] at ho
  simp
  omega

/-- ONE TURN AT A PIXEL: the unit resolves as the reference semantics says, to a colour that is written, or to
PaletteRangeError. -/
theorem resolve_turn {s : State} (hb : s.status = .busy) (hp : s.phase = .resolve) (hc : s.configured)
    (ho : s.out = s.job.expected) (hr : s.destRow < s.height) (hx : s.x < s.width) :
    (∃ q, refResolveUnit s s.job s.latchUnit.unit = .quad q
      ∧ engineTurn s = .next (s.latchUnit.writePixel q).nextPixel)
    ∨ (refResolveUnit s s.job s.latchUnit.unit = .raises .paletteRange
      ∧ engineTurn s = .next (s.latchUnit.raise .paletteRange)) := by
  have hc' : s.latchUnit.configured := configured_congr rfl rfl rfl hc
  obtain ⟨i, hi, e, hq⟩ := unit_resolves hc' s.latchUnit.unit (latchUnit_length hc ho hr hx) rfl
  have e' : refResolveUnit s.latchUnit s.latchUnit.job s.latchUnit.unit
      = refResolveUnit s s.job s.latchUnit.unit := by
    unfold refResolveUnit resolveIndex8 resolveIndex16
    have hpal : ∀ i, paletteEntry { s.latchUnit with job := s.latchUnit.job } i
        = paletteEntry { s with job := s.job } i := fun i => paletteEntry_congr i rfl rfl (fun _ _ _ => rfl)
    simp only [hpal]
    rfl
  rw [e'] at e
  have ht : engineTurn s = s.latchUnit.emit (resolvedBy i s.latchUnit) := by
    rw [engineTurn_resolve hb hp, turnResolve, if_pos ⟨hr, hx⟩]
    have hi' : decodeFsel s.job.fselImg = .ok i := hi
    simp only [hi']
    exact exec_format hi _
  rw [← e]
  rcases hq with ⟨q, hq⟩ | hq
  · exact .inl ⟨q, hq, by rw [ht, hq]; rfl⟩
  · exact .inr ⟨hq, by rw [ht, hq]; rfl⟩

/-! ### The walk -/

/-- There are W × H pixels. -/
theorem pixelOrder_length (w h : Nat) : (pixelOrder w h).length = w * h := by
  induction h with
  | zero => rfl
  | succ h ih =>
    have e : pixelOrder w (h + 1) = pixelOrder w h ++ (List.range w).map (fun c => (h, c)) := by
      simp [pixelOrder, List.range_succ, List.flatMap_append]
    rw [e, List.length_append, ih]
    simp [Nat.mul_succ]

/-- Pixel (r, c) is the one numbered r × W + c. -/
theorem pixelOrder_getElem? {w h r c : Nat} (hr : r < h) (hc : c < w) :
    (pixelOrder w h)[r * w + c]? = some (r, c) := by
  induction h with
  | zero => omega
  | succ h ih =>
    have e : pixelOrder w (h + 1) = pixelOrder w h ++ (List.range w).map (fun c => (h, c)) := by
      simp [pixelOrder, List.range_succ, List.flatMap_append]
    rw [e]
    by_cases hh : r < h
    · have h1 : (r + 1) * w ≤ h * w := Nat.mul_le_mul_right _ hh
      rw [Nat.succ_mul, Nat.mul_comm h] at h1
      rw [List.getElem?_append_left (by rw [pixelOrder_length]; omega)]
      exact ih hh
    · obtain rfl : r = h := by omega
      rw [List.getElem?_append_right (by rw [pixelOrder_length, Nat.mul_comm]; omega), pixelOrder_length,
        Nat.mul_comm r, Nat.add_sub_cancel_left]
      simp [hc]

/-- The next pixel's place follows the current one's. -/
theorem pixelAddr_nextPixel {s : State} (hx : s.x < s.width) :
    s.nextPixel.pixelAddr s.nextPixel.destRow s.nextPixel.x = s.pixelAddr s.destRow s.x + 4 := by
  have hw : s.nextPixel.width = s.width := by simp [State.width]
  rw [nextPixel_x, nextPixel_destRow]
  simp only [State.pixelAddr, hw]
  split
  · omega
  · have : s.x + 1 = s.width := by omega
    rw [Nat.succ_mul]
    omega

/-- The walk stays on a pixel or just past the last one. -/
theorem cursorOk_nextPixel {s : State} (h1 : s.destRow < s.height) (h2 : s.x < s.width) : s.nextPixel.cursorOk := by
  have hw : s.nextPixel.width = s.width := by simp [State.width]
  have hh : s.nextPixel.height = s.height := by simp [State.height]
  unfold State.cursorOk
  rw [hw, hh, nextPixel_x, nextPixel_destRow]
  split
  · left; omega
  · by_cases h : s.destRow + 1 < s.height
    · left; omega
    · right; left; omega

/-- Writing bytes right after a memory's content appends them to it. -/
theorem Memory.read_writeBytes_append {m : Memory} {pre : List Byte} (h : ∀ a, Memory.read m a = pre[a]?)
    (bs : List Byte) (a : Nat) : Memory.read (Memory.writeBytes m pre.length bs) a = (pre ++ bs)[a]? := by
  by_cases h1 : a < pre.length
  · rw [Memory.read_writeBytes_outside _ _ _ _ (.inl h1), h, List.getElem?_append_left h1]
  · by_cases h2 : a < pre.length + bs.length
    · have e := Memory.read_writeBytes_inside m pre.length bs (a - pre.length) (by omega)
      rw [show pre.length + (a - pre.length) = a by omega] at e
      rw [e, List.getElem?_append_right (by omega), List.getElem?_eq_getElem]
    · rw [Memory.read_writeBytes_outside _ _ _ _ (.inr (by omega)), h, List.getElem?_eq_none (by omega),
        List.getElem?_eq_none (by simp; omega)]

end Sys2Proof.Machine
end

