-- ==== Sys2Proof/Laws/Turn.lean ====
section
/-! SUPPORT. What the engine's turn leaves alone, and which SRC bytes a packet's bytes depend on. -/

namespace Sys2Proof.Machine

/-- The four plain steps of a job, by phase (R78). -/
theorem engineTurn_checkConfig {s : State} (hb : s.status = .busy) (hp : s.phase = .checkConfig) :
    engineTurn s = .next (stepCheckConfig s) := by rw [engineTurn_busy hb]; unfold turnBusy; rw [hp]

theorem engineTurn_derive {s : State} (hb : s.status = .busy) (hp : s.phase = .derive) :
    engineTurn s = .next (stepDerive s) := by rw [engineTurn_busy hb]; unfold turnBusy; rw [hp]

theorem engineTurn_loadRaw {s : State} (hb : s.status = .busy) (hp : s.phase = .loadRaw) :
    engineTurn s = .next (stepLoadRaw s) := by rw [engineTurn_busy hb]; unfold turnBusy; rw [hp]

theorem engineTurn_complete {s : State} (hb : s.status = .busy) (hp : s.phase = .complete) :
    engineTurn s = .next s.complete := by rw [engineTurn_busy hb]; unfold turnBusy; rw [hp]

/-- STATE and ERR at the end of a job. -/
theorem endJob_status_err (s : State) (r : Option JobError) :
    ((s.endJob r).status = .done ∧ (s.endJob r).err = 0)
    ∨ ((s.endJob r).status = .error ∧ ∃ e, (s.endJob r).err = errorCode e) := by
  rcases endJob_cases s r with h | ⟨e, h⟩
  · left
    rw [h]
    exact ⟨rfl, rfl⟩
  · right
    rw [endedWith] at h
    rw [h]
    exact ⟨rfl, e, rfl⟩

/-- THE FRAME OF A TURN: the parameters, the registers, SRC, the host's fields and the disturbance mark stay; the
per-job quantities change in Derive only; STATE and ERR stay, or the job ends. -/
theorem engineTurn_frame {s t : State} (h : engineTurn s = .next t) :
    t.caps = s.caps ∧ t.config = s.config ∧ t.src = s.src ∧ t.hostQueue = s.hostQueue
    ∧ t.srcDisturbed = s.srcDisturbed ∧ t.hostData = s.hostData
    ∧ (t.job ≠ s.job → s.status = .busy ∧ s.phase = .derive)
    ∧ ((t.status = s.status ∧ t.err = s.err)
      ∨ (s.status = .busy ∧ t.phase = .noJob
        ∧ (t.status = .done ∧ t.err = 0 ∨ t.status = .error ∧ ∃ e, t.err = errorCode e))) := by
  by_cases hb : s.status = .busy
  swap
  · rw [engineTurn_not_busy hb] at h
    cases h
    simp
  rcases turn_cases hb h with ⟨hp, rfl⟩ | ⟨hp, r, s', rfl, hs', _⟩ | ⟨hp, hc, rfl⟩ | ⟨hp, rfl⟩ | ⟨hp, ho, rfl⟩
    | ⟨hp, h1, h2, h3, h4, rfl⟩ | ⟨hp, h1, rfl⟩ | ⟨hp, h1, h2, i, q, hi, hq, rfl⟩ | ⟨hp, hx, rfl⟩
  case inr.inl =>
    have he := endJob_status_err s' r
    rcases hs' with rfl | rfl | rfl
    all_goals
      simp only [endJob_caps, endJob_src, endJob_job, State.config, endJob_hostQueue, endJob_srcDisturbed,
        endJob_hostData, endJob_phase, endJob_srcLen, endJob_dataEnd, endJob_dim, endJob_format, endJob_cmap,
        endJob_cmap2, endJob_attr]
      refine ⟨by trivial, by trivial, by trivial, by trivial, by trivial, by trivial, fun x => absurd rfl x, ?_⟩
      exact .inr ⟨hb, by trivial, he⟩
  all_goals simp [State.config, hb, hp]

/-- The end of a job does not depend on SRC. -/
theorem endJob_src_update (s : State) (m : Memory) (r : Option JobError) :
    ({ s with src := m } : State).endJob r = { s.endJob r with src := m } := by
  simp only [State.endJob, State.jobResult]
  split <;> simp [*]

/-- A packet's bytes depend on the SRC bytes it takes, and on no other. -/
theorem packetBytes_congr {s : State} {m : Memory} {cb : Byte} {a : Nat}
    (h : ∀ k, a ≤ k → k < a + packetNeed s cb → ({ s with src := m } : State).srcByte k = s.srcByte k) :
    packetBytes { s with src := m } cb a = packetBytes s cb a := by
  unfold packetBytes
  unfold packetNeed at h
  split
  next hx =>
    rw [if_pos hx] at h
    simp only
    rw [srcBytes_congr (t := s)]
    intro j hj
    exact h _ (by omega) (by omega)
  next hx =>
    rw [if_neg hx] at h
    simp only
    rw [srcBytes_congr (t := s)]
    intro j hj
    exact h _ (by omega) (by omega)

end Sys2Proof.Machine
end

