-- ==== Sys2Proof/Tests/Slice0.lean ====
section
/-! SUPPORT. The model's own tests. Expected results are the spec's: the words written out from R47, R48, R51 and R53,
and the vectors of spec/95_test_vectors.md, whose names stand in the comments. Then one witness for each
statement with hypotheses, clause by clause. -/

namespace Sys2Proof.Tests

open Sys2Proof Sys2Proof.Machine

/-! ### WellFormed refuses ill-formed terms -/

theorem test_wellFormed_run_zero : Instr.wellFormed (.run 0) = false := by decide
theorem test_wellFormed_run_too_long : Instr.wellFormed (.run 129) = false := by decide
theorem test_wellFormed_raw_zero : Instr.wellFormed (.raw 0) = false := by decide
theorem test_wellFormed_raw_too_long : Instr.wellFormed (.raw 129) = false := by decide
theorem test_wellFormed_start_without_bit : Instr.wellFormed (.start 2) = false := by decide
theorem test_wellFormed_packet_unit_length : Packet.wellFormed 3 (.run 4 [1, 2]) = false := by decide
theorem test_wellFormed_packet_count : Packet.wellFormed 1 (.run 0 [1]) = false := by decide
theorem test_wellFormed_packet_unit_count : Packet.wellFormed 1 (.raw 2 [[1]]) = false := by decide
theorem test_wellFormed_packet_raw_unit_length : Packet.wellFormed 2 (.raw 2 [[1, 2], [3]]) = false := by decide
theorem test_wellFormed_packet_raw_count : Packet.wellFormed 1 (.raw 0 []) = false := by decide
theorem test_wellFormed_fill_zero : PseudoPacket.wellFormed 1 (.fill 0 [1]) = false := by decide
theorem test_wellFormed_fill_unit_length : PseudoPacket.wellFormed 2 (.fill 3 [1]) = false := by decide
theorem test_wellFormed_copy_empty : PseudoPacket.wellFormed 1 (.copy []) = false := by decide
theorem test_wellFormed_copy_unit_length : PseudoPacket.wellFormed 1 (.copy [[1], []]) = false := by decide

/-! ### Words written out from the encodings -/

/-- R48's examples: 0x80 → 1, 0x83 → 4, 0xFF → 128. -/
theorem test_decode_run : decodeControl 0b10000000#8 = .run 1 ∧ decodeControl 0b10000011#8 = .run 4
    ∧ decodeControl 0b11111111#8 = .run 128 := by decide
/-- R48's examples: 0x00 → 1, 0x02 → 3, 0x7F → 128. -/
theorem test_decode_raw : decodeControl 0b00000000#8 = .raw 1 ∧ decodeControl 0b00000010#8 = .raw 3
    ∧ decodeControl 0b01111111#8 = .raw 128 := by decide
theorem test_decode_gray8 : decodeFsel 0b00000001#8 = .ok (.gray8 false)
    ∧ decodeFsel 0b00001001#8 = .ok (.gray8 true) := by decide
theorem test_decode_gray16a : decodeFsel 0b00001010#8 = .ok .gray16a := by decide
theorem test_decode_hc15 : decodeFsel 0b00000010#8 = .ok .hc15 := by decide
theorem test_decode_tc24 : decodeFsel 0b00000011#8 = .ok (.tc24 false)
    ∧ decodeFsel 0b00001011#8 = .ok (.tc24 true) := by decide
theorem test_decode_tc32 : decodeFsel 0b00000100#8 = .ok (.tc32 false)
    ∧ decodeFsel 0b00001100#8 = .ok (.tc32 true) := by decide
theorem test_decode_index8 : decodeFsel 0b00010001#8 = .ok (.index8 false)
    ∧ decodeFsel 0b00011001#8 = .ok (.index8 true) := by decide
theorem test_decode_index16 : decodeFsel 0b00010010#8 = .ok (.index16 false)
    ∧ decodeFsel 0b00011010#8 = .ok (.index16 true) := by decide
/-- RG-5, RG-6: only bit 0 of a CTRL write matters. -/
theorem test_decode_start : decodeStart 0x00000001#32 = .ok (.start 1)
    ∧ decodeStart 0xFFFFFFFF#32 = .ok (.start 0xFFFFFFFF#32) ∧ decodeStart 0x00000002#32 = .error (.notStart 2) := by
  decide
theorem test_decode_reserved : decodeFsel 0b00010011#8 = .error (.reservedFsel 0b00010011#8)
    ∧ decodeFsel 0b00100001#8 = .error (.reservedFsel 0b00100001#8) := by decide
/-- P1's packets: `83 0A 14 1E` and `01 01 02 03 04 05 06`. -/
theorem test_assemble_p1 :
    assemblePackets [.run 4 [0x0A, 0x14, 0x1E], .raw 2 [[1, 2, 3], [4, 5, 6]]]
      = [0x83, 0x0A, 0x14, 0x1E, 0x01, 1, 2, 3, 4, 5, 6] := by decide
/-- P5's FILL 130 of a two-byte unit: `FF 4D 80 81 4D 80`. -/
theorem test_assemble_p5 :
    assemblePackets (expandPseudo (.fill 130 [0x4D, 0x80])) = [0xFF, 0x4D, 0x80, 0x81, 0x4D, 0x80] := by decide

/-! ### The host's two questions, one per row of the table -/

/-- The state after the first step from reset with a table word placed, if there is one. -/
def firstStep (nbits w : Nat) : Option State := nextOf (step (State.reset.withFetchWord nbits w))

theorem test_table_words_decode :
    decodeTableWord 8 0x80 = some (.run 1) ∧ decodeTableWord 8 0x00 = some (.raw 1)
    ∧ decodeTableWord 8 0x01 = some (.gray8 false) ∧ decodeTableWord 8 0x0A = some .gray16a
    ∧ decodeTableWord 8 0x02 = some .hc15 ∧ decodeTableWord 8 0x03 = some (.tc24 false)
    ∧ decodeTableWord 8 0x04 = some (.tc32 false) ∧ decodeTableWord 8 0x11 = some (.index8 false)
    ∧ decodeTableWord 8 0x12 = some (.index16 false) ∧ decodeTableWord 32 0x1 = some (.start 1) := by decide
/-- Each row's word, placed after reset, is what the first step runs. -/
theorem test_placed_words_run :
    (firstStep 8 0x83).map State.raw = some [0, 0, 0, 0]
    ∧ (firstStep 8 0x00).map State.raw = some [0]
    ∧ (firstStep 8 0x01).map State.dst = some [(0, 0), (1, 0), (2, 0), (3, 255)]
    ∧ (firstStep 8 0x0A).map State.dst = some [(0, 0), (1, 0), (2, 0), (3, 0)]
    ∧ (firstStep 8 0x02).map State.dst = some [(0, 0), (1, 0), (2, 0), (3, 255)]
    ∧ (firstStep 8 0x03).map State.dst = some [(0, 0), (1, 0), (2, 0), (3, 255)]
    ∧ (firstStep 8 0x0C).map State.dst = some [(0, 0), (1, 0), (2, 0), (3, 0)]
    ∧ (firstStep 8 0x11).map State.dst = some [(0, 0), (1, 0), (2, 0), (3, 255)]
    ∧ (firstStep 8 0x12).map State.dst = some [(0, 0), (1, 0), (2, 0), (3, 255)]
    ∧ (firstStep 32 0x1).map State.phase = some .checkConfig := by decide

/-! ### Small states -/

/-- A file whose bytes from offset 18 on are `bs`, with its registers. -/
def file (format dim cmap : Word) (cmap2 : BitVec 16) (attr : BitVec 9) (bs : List Byte) : State :=
  { State.resetWith { src := 1000, dst := 1000 } with
    srcLen := BitVec.ofNat 32 (18 + bs.length), dataEnd := BitVec.ofNat 32 (18 + bs.length), dim := dim,
    format := format, cmap := cmap, cmap2 := cmap2, attr := attr, src := Memory.writeBytes [] 18 bs }

/-- A job that runs over it, in a phase. -/
def running (p : Phase) (s : State) : State :=
  { s with status := .busy, phase := p, job := s.deriveJob, rd := s.dataStartOf }

/-- A job in its resolve phase, the unit of its pixel latched. -/
def latched (u : List Byte) (s : State) : State := { running .resolve s with unit := u }

/-- The state after one step of the machine's instruction `i`. -/
def after (i : Instr) (s : State) : Option State := nextOf (exec i s)

/-- A raw one-pixel image of the given type and depth. -/
def onePixel (imageType depth : Nat) : State :=
  file (BitVec.ofNat 32 (imageType + 0x10000 * depth)) 0x00010001 0 0 0 []

/-! ### One step of each instruction, from the vectors of 95_test_vectors.md -/

/-- L1-4 of the spec: P = 3, `83 0A 14 1E`, the control byte already taken. -/
def runState : State :=
  { running .rle (file 0x0018000A 0x00010004 0 0 0 [0x83, 0x0A, 0x14, 0x1E]) with rd := 19 }

theorem test_run_repeats : (after (.run 4) runState).map (fun t => (t.raw, t.rd))
    = some ([0x0A, 0x14, 0x1E, 0x0A, 0x14, 0x1E, 0x0A, 0x14, 0x1E, 0x0A, 0x14, 0x1E], 22) := by decide
/-- RLE-7: the unit needs 3 bytes and 2 remain. -/
theorem test_run_truncated :
    (after (.run 2) { running .rle (file 0x0018000A 0x00010002 0 0 0 [0x81, 0x0A, 0x14]) with rd := 19 }).map
      State.statusWord = some 0x00000303 := by decide

/-- L1-5 of the spec: P = 3, `02 01 02 03 04 05 06 07 08 09`. -/
theorem test_raw_copies :
    (after (.raw 3) { running .rle (file 0x0018000A 0x00010003 0 0 0 [2, 1, 2, 3, 4, 5, 6, 7, 8, 9]) with
      rd := 19 }).map (fun t => (t.raw, t.rd)) = some ([1, 2, 3, 4, 5, 6, 7, 8, 9], 28) := by decide
/-- P4: RAW 3 after two of four units is an overproduction. -/
theorem test_raw_overproduces :
    (after (.raw 3) { running .rle (file 0x2008000B 0x00010004 0 0 0 [0x81, 0x10, 2, 0x20, 0x30, 0x40]) with
      rd := 21, raw := [0x10, 0x10] }).map State.statusWord = some 0x00000303 := by decide

/-- PX-2. -/
theorem test_gray8 : (after (.gray8 true) (latched [0x80] (onePixel 3 8))).map State.dst
    = some [(0, 128), (1, 128), (2, 128), (3, 255)] := by decide
/-- PX-5. -/
theorem test_gray16a : (after .gray16a (latched [0x4D, 0x80] (onePixel 3 16))).map State.dst
    = some [(0, 0), (1, 0), (2, 0), (3, 128)] := by decide
/-- PX-17: 5-bit fields 0, 16 and 1. -/
theorem test_hc15 : (after .hc15 (latched [0x01, 0x02] (onePixel 2 16))).map State.dst
    = some [(0, 0), (1, 132), (2, 8), (3, 255)] := by decide
/-- PX-8: bit 15 is ignored. -/
theorem test_hc15_bit15 : (after .hc15 (latched [0x00, 0x80] (onePixel 2 16))).map State.dst
    = some [(0, 0), (1, 0), (2, 0), (3, 255)] := by decide
/-- PX-18. -/
theorem test_tc24 : (after (.tc24 false) (latched [0x0A, 0x14, 0x1E] (onePixel 2 24))).map State.dst
    = some [(0, 30), (1, 20), (2, 10), (3, 255)] := by decide
/-- A-3: ATTR_PRESENT with type 0 forces A to 255. -/
theorem test_tc32_no_alpha :
    (after (.tc32 false) (latched [1, 2, 3, 0] { onePixel 2 32 with attr := 0x100 })).map State.dst
      = some [(0, 3), (1, 2), (2, 1), (3, 255)] := by decide
/-- A-8: a type above 4 counts as absent, so A is copied. -/
theorem test_tc32_unset :
    (after (.tc32 false) (latched [1, 2, 3, 0] { onePixel 2 32 with attr := 0x105 })).map State.dst
      = some [(0, 3), (1, 2), (2, 1), (3, 0)] := by decide

/-- IX-11: CM_ORIGIN = 1 is a byte displacement. -/
def paletteState : State :=
  latched [0] (file 0x00080101 0x00010001 0x00020001 24 0 [0xEE, 0x10, 0x20, 0x30, 0, 0, 0])
theorem test_index8 : (after (.index8 false) paletteState).map State.dst
    = some [(0, 0x30), (1, 0x20), (2, 0x10), (3, 255)] := by decide
/-- IX-10: the entry of index 1 ends at 24, past SRC_LEN = 22. -/
theorem test_index8_past_end :
    (after (.index8 false) (latched [1] (file 0x00080101 0x00010001 0x00010000 24 0 [1, 2, 3, 1]))).map
      State.statusWord = some 0x00000603 := by decide
/-- IX-6. -/
def palette16State : State :=
  latched [1, 0] (file 0x00100101 0x00010001 0x00020000 24 0 [0xAA, 0xBB, 0xCC, 0xAA, 0xBB, 0xCC, 1, 0])
theorem test_index16 : (after (.index16 false) palette16State).map State.dst
    = some [(0, 0xCC), (1, 0xBB), (2, 0xAA), (3, 255)] := by decide
/-- IX-7: LE16 of `01 01` is 257, far past the end. -/
theorem test_index16_past_end :
    (after (.index16 false) (latched [1, 1] (file 0x00100101 0x00010001 0x00010000 24 0 [0xAA, 0xBB, 0xCC, 1, 1]))).map
      State.statusWord = some 0x00000603 := by decide

/-- The example of R77: START from DONE. -/
theorem test_start : (after (.start 1) { State.reset with status := .done }).map State.statusWord
    = some 0x00000001 := by decide
/-- RG-10: a START while BUSY changes nothing. -/
theorem test_start_busy : (after (.start 1) runState) = some runState := by decide

/-! ### The error codes of CheckConfig: E-1, E-2, E-5 and E-12 -/

theorem test_check_reset : checkConfig State.reset = some .unsupportedImageType := by decide
theorem test_check_map_type_first : checkConfig (file 0x00070200 0 0 0 0 []) = some .unsupportedColorMapType := by
  decide
theorem test_check_depth_before_range :
    checkConfig { file 0x00070002 0 0 0 0 [] with dataEnd := 99 } = some .unsupportedPixelDepth := by decide
theorem test_check_capacity :
    checkConfig { file 0x00180002 0x00020002 0 0 0 [] with caps := { src := 1000, dst := 15 } }
      = some .configRange := by decide

/-! ### The reference semantics on the spec's programs -/

/-- P1: bottom-to-top, a run that crosses a row. -/
theorem test_job_p1 :
    refJob (file 0x0018000A 0x00020003 0 0x0200 0
        [0x41, 0x42, 0x83, 0x0A, 0x14, 0x1E, 0x01, 0x01, 0x02, 0x03, 0x04, 0x05, 0x06, 0x00])
      = .ok [0x1E, 0x14, 0x0A, 0xFF, 0x03, 0x02, 0x01, 0xFF, 0x06, 0x05, 0x04, 0xFF,
             0x1E, 0x14, 0x0A, 0xFF, 0x1E, 0x14, 0x0A, 0xFF, 0x1E, 0x14, 0x0A, 0xFF] := by decide
/-- P2: RLE colour-mapped with 15-bit entries. -/
theorem test_job_p2 :
    refJob (file 0x20080109 0x00010004 0x00030000 0x000F 0
        [0x00, 0x7C, 0xE0, 0x03, 0xEF, 0x3D, 0x82, 0x01, 0x00, 0x02])
      = .ok [0x00, 0xFF, 0x00, 0xFF, 0x00, 0xFF, 0x00, 0xFF, 0x00, 0xFF, 0x00, 0xFF, 0x7B, 0x7B, 0x7B, 0xFF] := by
  decide
/-- P4, both jobs. -/
theorem test_job_p4 :
    refJob (file 0x2008000B 0x00010004 0 0 0 [0x81, 0x10, 0x02, 0x20, 0x30, 0x40]) = .error .truncatedStream
    ∧ refJob (file 0x2008000B 0x00010004 0 0 0 [0x81, 0x10, 0x01, 0x20, 0x30, 0x40])
      = .ok [0x10, 0x10, 0x10, 0xFF, 0x10, 0x10, 0x10, 0xFF, 0x20, 0x20, 0x20, 0xFF, 0x30, 0x30, 0x30, 0xFF] := by
  decide
/-- P6: a palette read past SRC_LEN. -/
theorem test_job_p6 :
    refJob (file 0x20080101 0x00010002 0x00020000 0x0018 0 [0x10, 0x20, 0x30, 0x40, 0x50, 0x60, 0x01, 0x05])
      = .error .paletteRange := by decide
/-- RO-2: three rows, bottom-to-top. -/
theorem test_job_ro2 :
    refJob (file 0x00080003 0x00030002 0 0 0 [1, 2, 3, 4, 5, 6])
      = .ok [5, 5, 5, 255, 6, 6, 6, 255, 3, 3, 3, 255, 4, 4, 4, 255, 1, 1, 1, 255, 2, 2, 2, 255] := by decide

/-! ### The host port -/

/-- RG-2: reserved bits read 0. -/
theorem test_reserved_bits : (State.reset.writeReg 0x1C 0xFFFFFFFF).readReg 0x1C = 0x0000FFFF
    ∧ (State.reset.writeReg 0x20 0xFFFFFFFF).readReg 0x20 = 0x000001FF := by decide
/-- RG-4 and RG-8: an unmapped offset and STATUS ignore writes. -/
theorem test_ignored_writes : (State.reset.writeReg 0x24 0xDEADBEEF).readReg 0x24 = 0
    ∧ (State.reset.writeReg 0x04 0x00000002).statusWord = 0 := by decide

/-! ### Witnesses: states and operands that meet a statement's hypotheses, clause by clause -/

theorem witness_DecodeAndEncodeAgree :
    Instr.wellFormed (.run 1) = true ∧ Instr.wellFormed (.raw 128) = true ∧ Instr.wellFormed (.start 1) = true
    ∧ decode (.control 0xFF) = .ok (.run 128) ∧ decode (.fsel 0x1A) = .ok (.index16 true)
    ∧ decode (.ctrlWrite 0xFFFFFFFF) = .ok (.start 0xFFFFFFFF) := by decide

theorem witness_AssembledPacketsReadBack :
    Packet.wellFormed 4 (.run 128 [1, 2, 3, 4]) = true ∧ Packet.wellFormed 1 (.raw 1 [[7]]) = true := by decide

theorem witness_AssemblerAcceptsExactlyWellFormedPackets :
    assemble 1 (.run 128 [7]) = .ok (assemblePacket (.run 128 [7])) ∧ Packet.wellFormed 1 (.raw 1 [[7]]) = true := by
  decide

theorem witness_PseudoExpansionKeepsTheUnits :
    PseudoPacket.wellFormed 1 (.fill 129 [7]) = true ∧ PseudoPacket.wellFormed 1 (.copy [[7]]) = true := by decide

/-- The resolver at a pixel whose image selector is reserved: a state no run reaches. -/
def reservedState : State :=
  { running .resolve (onePixel 2 24) with job := { (onePixel 2 24).deriveJob with fselImg := 0x13 } }

theorem witness_ReservedSelectorsAreRefused :
    paletteState.configured ∧ paletteState.indexed = true
    ∧ ((file 0x000F0101 0 0 24 0 []).indexed = true ∧ (file 0x000F0101 0 0 24 0 []).pixelDepth = 15)
    ∧ (reservedState.status = .busy ∧ reservedState.phase = .resolve ∧ reservedState.srcDisturbed = false
        ∧ reservedState.destRow < reservedState.height ∧ reservedState.x < reservedState.width
        ∧ decodeFsel reservedState.job.fselImg = .error (.reservedFsel reservedState.job.fselImg))
    ∧ decodeFsel 0xFF = .error (.reservedFsel 0xFF) := by
  unfold State.configured; decide

/-- A state with one host event to come. -/
def hostDoes (e : HostEvent) (s : State) : State := { s with hostQueue := [e] }

theorem witness_StepRunsTheCtrlWrite :
    (hostDoes (.regWrite 0x00 .word 3) State.reset).hostQueue = .regWrite 0x00 .word 3 :: []
    ∧ decode (.ctrlWrite 3) = .ok (.start 3) ∧ (2#32)[0] = false ∧ (1#32)[0] = (3#32)[0]
    ∧ (hostDoes (.regWrite 0x00 .word 2) State.reset).hostQueue = .regWrite 0x00 .word 2 :: []
    ∧ (hostDoes (.regRead 0x00 .word) State.reset).hostQueue = .regRead 0x00 .word :: [] := by decide

/-- P4's second job, in its decode phase. -/
def rleState : State := running .rle (file 0x2008000B 0x00010004 0 0 0 [0x81, 0x10, 0x01, 0x20, 0x30, 0x40])

theorem witness_StepRunsTheControlByte :
    engineMoves rleState ∧ engineMoves (hostDoes .poll rleState) ∧ engineMoves (hostDoes .engineTurn rleState)
    ∧ rleState.status = .busy ∧ rleState.phase = .rle ∧ rleState.out < rleState.job.expected
    ∧ rleState.rd < rleState.dataEnd.toNat ∧ decode (.control (rleState.srcByte rleState.rd)) = .ok (.run 2) :=
  ⟨.inl rfl, .inr (.inr ⟨rfl, rfl⟩), .inr (.inl rfl), by decide⟩

theorem witness_StepRunsTheSelector :
    engineMoves (running .resolve (onePixel 3 8)) ∧ (running .resolve (onePixel 3 8)).status = .busy
    ∧ (running .resolve (onePixel 3 8)).phase = .resolve
    ∧ (running .resolve (onePixel 3 8)).destRow < (running .resolve (onePixel 3 8)).height
    ∧ (running .resolve (onePixel 3 8)).x < (running .resolve (onePixel 3 8)).width
    ∧ decode (.fsel (running .resolve (onePixel 3 8)).job.fselImg) = .ok (.gray8 true) :=
  ⟨.inl rfl, by decide⟩

theorem witness_StartBeginsAJob : (2#32)[0] = false ∧ rleState.status = .busy ∧ (1#32)[0] = true
    ∧ State.reset.status ≠ .busy := by decide

/-- The packet exactly fills RAW and exactly reaches DATA_END; then one byte, or one unit, too few. -/
theorem witness_RunRepeatsItsUnit :
    runState.out + 4 * runState.job.unitSize = runState.job.expected
    ∧ runState.rd + runState.job.unitSize = runState.dataEnd.toNat
    ∧ { runState with rd := 20 }.srcDisturbed = false
    ∧ runState.dataEnd.toNat < { runState with rd := 20 }.rd + runState.job.unitSize := by decide

theorem witness_RawCopiesItsLiterals :
    runState.out + 1 * runState.job.unitSize ≤ runState.job.expected
    ∧ runState.rd + 1 * runState.job.unitSize = runState.dataEnd.toNat
    ∧ { runState with rd := 20 }.srcDisturbed = false
    ∧ runState.dataEnd.toNat < { runState with rd := 20 }.rd + 1 * runState.job.unitSize := by decide

/-- RLE-6: the region is empty. -/
def emptyRegion : State := running .rle (file 0x0018000A 0x00010001 0 0 0 [])

theorem witness_RunningOutOfInputIsFatal :
    emptyRegion.srcDisturbed = false ∧ emptyRegion.status = .busy ∧ emptyRegion.phase = .rle
    ∧ emptyRegion.out < emptyRegion.job.expected ∧ emptyRegion.dataEnd.toNat ≤ emptyRegion.rd
    ∧ emptyRegion.dataEnd.toNat < emptyRegion.rd + emptyRegion.job.unitSize
    ∧ emptyRegion.dataEnd.toNat < emptyRegion.rd + 1 * emptyRegion.job.unitSize := by decide

theorem witness_OverproductionIsFatal :
    runState.srcDisturbed = false ∧ runState.job.expected < runState.out + 5 * runState.job.unitSize := by decide

theorem witness_DecoderReadsForwardInsideItsRegion :
    rleState.status = .busy ∧ rleState.phase = .rle ∧ rleState.rd ≤ rleState.dataEnd.toNat
    ∧ rleState.out ≤ rleState.job.expected
    ∧ (nextOf (engineTurn rleState)).map (fun t => (t.phase, t.rd, t.raw)) = some (.rle, 20, [0x10, 0x10]) := by
  decide

theorem witness_AssembledPacketRuns :
    rleState.status = .busy ∧ rleState.phase = .rle
    ∧ Packet.wellFormed rleState.job.unitSize (.run 2 [0x10]) = true ∧ rleState.out < rleState.job.expected
    ∧ rleState.srcBytes rleState.rd (assemblePacket (.run 2 [0x10])).length = assemblePacket (.run 2 [0x10])
    ∧ rleState.rd + (assemblePacket (.run 2 [0x10])).length ≤ rleState.dataEnd.toNat
    ∧ rleState.out + (Packet.run 2 [0x10]).units.length * rleState.job.unitSize ≤ rleState.job.expected := by
  decide

theorem witness_Gray8Result : (latched [0x80] (onePixel 3 8)).unit = [0x80] := by decide
theorem witness_Gray16aResult : (latched [0x4D, 0x80] (onePixel 3 16)).unit = [0x4D, 0x80] := by decide
theorem witness_Hc15Result : (latched [0xFF, 0xFF] (onePixel 2 15)).unit = [0xFF, 0xFF] := by decide
theorem witness_Tc24Result : (latched [1, 2, 3] (onePixel 2 24)).unit = [1, 2, 3] := by decide
theorem witness_Tc32Result : (latched [1, 2, 3, 4] (onePixel 2 32)).unit = [1, 2, 3, 4]
    ∧ (latched [1, 2, 3, 4] (onePixel 2 32)).job = (latched [1, 2, 3, 4] (onePixel 2 32)).deriveJob := by decide

/-- IX-9: the entry ends exactly at SRC_LEN; one byte less of SRC_LEN, and it passes it. -/
def exactPalette : State :=
  { latched [0] (file 0x00080101 0x00010001 0x00010000 24 0 [1, 2, 3]) with dataEnd := 21 }

/-- The same entry read through an origin one byte further on. -/
def shortPalette : State :=
  latched [0] (file 0x00080101 0x00010001 0x00010001 24 0 [1, 2, 3])

theorem witness_Index8Result :
    exactPalette.configured ∧ exactPalette.indexed = true ∧ exactPalette.unit = [0]
    ∧ 18 + exactPalette.idLength + exactPalette.cmOrigin + 0 + (exactPalette.cmEntryDepth + 7) / 8
        = exactPalette.srcLen.toNat
    ∧ shortPalette.configured ∧ shortPalette.indexed = true ∧ shortPalette.unit = [0]
    ∧ shortPalette.srcLen.toNat + 1
        = 18 + shortPalette.idLength + shortPalette.cmOrigin + 0 + (shortPalette.cmEntryDepth + 7) / 8
    ∧ shortPalette.srcDisturbed = false := by
  unfold State.configured; decide

/-- A two-byte index over the same palettes. -/
def exactPalette16 : State :=
  latched [0, 0] (file 0x00100101 0x00010001 0x00010000 24 0 [1, 2, 3])
def shortPalette16 : State :=
  latched [0, 0] (file 0x00100101 0x00010001 0x00010001 24 0 [1, 2, 3])

theorem witness_Index16Result :
    exactPalette16.configured ∧ exactPalette16.indexed = true ∧ exactPalette16.unit = [0, 0]
    ∧ 18 + exactPalette16.idLength + exactPalette16.cmOrigin + 0 + (exactPalette16.cmEntryDepth + 7) / 8
        = exactPalette16.srcLen.toNat
    ∧ shortPalette16.configured ∧ shortPalette16.indexed = true ∧ shortPalette16.unit = [0, 0]
    ∧ shortPalette16.srcLen.toNat + 1
        = 18 + shortPalette16.idLength + shortPalette16.cmOrigin + 0 + (shortPalette16.cmEntryDepth + 7) / 8
    ∧ shortPalette16.srcDisturbed = false := by
  unfold State.configured; decide

theorem witness_UnitsOfTheWrongLengthFault :
    (latched [1, 2] (onePixel 3 8)).unit.length ≠ 1 ∧ (latched [] (onePixel 3 16)).unit.length ≠ 2
    ∧ (latched [1, 2] (onePixel 3 24)).unit.length ≠ 3 ∧ (latched [1, 2, 3] (onePixel 3 32)).unit.length ≠ 4 := by
  decide

theorem witness_PaletteReadPastSrcLenIsFatal :
    shortPalette.srcDisturbed = false ∧ shortPalette.unit = [0]
    ∧ shortPalette.srcLen.toNat < shortPalette.job.paletteBase + 0 * shortPalette.job.entrySize + shortPalette.job.entrySize
    ∧ shortPalette16.srcDisturbed = false ∧ shortPalette16.unit = [0, 0]
    ∧ shortPalette16.srcLen.toNat
        < shortPalette16.job.paletteBase + 0 * shortPalette16.job.entrySize + shortPalette16.job.entrySize := by
  decide

/-- One configured job for each operation: the direct ones and the two indexed ones. -/
theorem witness_SelectorNamesTheOperation :
    (exactPalette.configured ∧ exactPalette.indexed = true ∧ exactPalette.job.unitSize = 1)
    ∧ (exactPalette16.configured ∧ exactPalette16.indexed = true ∧ exactPalette16.job.unitSize = 2)
    ∧ (rleState.configured ∧ rleState.indexed = false ∧ rleState.job.unitSize = 1)
    ∧ ((running .resolve (onePixel 3 16)).configured ∧ (running .resolve (onePixel 3 16)).isGray = true)
    ∧ ((running .resolve (onePixel 2 15)).configured ∧ (running .resolve (onePixel 2 15)).isGray = false)
    ∧ (runState.configured ∧ runState.indexed = false ∧ runState.job.unitSize = 3)
    ∧ ((running .resolve (onePixel 2 32)).configured ∧ (running .resolve (onePixel 2 32)).job.unitSize = 4) := by
  unfold State.configured; decide

/-- The first palette state and the same pixel elsewhere in the image. -/
theorem witness_SameUnitSameQuad :
    paletteState.unit = { paletteState with x := 0, destRow := 5 }.unit
    ∧ paletteState.src = { paletteState with x := 0, destRow := 5 }.src
    ∧ paletteState.srcLen = { paletteState with x := 0, destRow := 5 }.srcLen
    ∧ paletteState.job = { paletteState with x := 0, destRow := 5 }.job
    ∧ (after (.index8 false) paletteState).isSome = true := by decide

theorem witness_RowOrderIsItsOwnInverse : 2 < (file 0x00080003 0x00030002 0 0 0 []).height := by decide

/-- The last byte of a two by three image, and two pixels of it. -/
theorem witness_PixelsTileTheOutput :
    (running .resolve (file 0x00080003 0x00030002 0 0 0 [])).job
        = (running .resolve (file 0x00080003 0x00030002 0 0 0 [])).deriveJob
    ∧ 23 < (running .resolve (file 0x00080003 0x00030002 0 0 0 [])).job.outLen
    ∧ 2 < (running .resolve (file 0x00080003 0x00030002 0 0 0 [])).height
    ∧ 1 < (running .resolve (file 0x00080003 0x00030002 0 0 0 [])).width := by decide

/-- A job at CheckConfig over each of E-2, E-4, E-6, E-9 and P4: the five clauses, in order. -/
theorem witness_CheckConfigOrder :
    (running .checkConfig (file 0x00070200 0 0 0 0 [])).status = .busy
    ∧ (running .checkConfig (file 0x00070200 0 0 0 0 [])).phase = .checkConfig
    ∧ (running .checkConfig (file 0x00070200 0 0 0 0 [])).srcDisturbed = false
    ∧ (file 0x00070200 0 0 0 0 []).colorMapType = 2
    ∧ (file 0x0000000C 0 0 0 0 []).colorMapType = 0 ∧ (file 0x0000000C 0 0 0 0 []).imageType = 12
    ∧ (file 0x00180101 0 0 24 0 []).colorMapType = 1 ∧ (file 0x00180101 0 0 24 0 []).pixelDepth = 24
    ∧ checkConfig (file 0x00180101 0 0 24 0 []) = some .unsupportedPixelDepth
    ∧ checkConfig { file 0x00180002 0 0 0 0 [] with dataEnd := 19 } = some .configRange
    ∧ checkConfig { file 0x00180002 0 0 0 0 [] with dataEnd := 17 } = some .configRange
    ∧ checkConfig { file 0x00180002 0 0 0 0 [] with dataEnd := 18 } = none
    ∧ checkConfig rleState = none := by decide

theorem witness_DeriveComputesTheJob :
    (running .derive paletteState).status = .busy ∧ (running .derive paletteState).phase = .derive
    ∧ paletteState.colorMapType = 1 := by decide

/-- E-14 and E-15 of 95_test_vectors.md: one byte too few, and exactly enough. -/
theorem witness_LoadRawTakesTheFirstBytes :
    (running .loadRaw (file 0x00100002 0x00010002 0 0 0 [1, 2, 3])).status = .busy
    ∧ (running .loadRaw (file 0x00100002 0x00010002 0 0 0 [1, 2, 3])).phase = .loadRaw
    ∧ (running .loadRaw (file 0x00100002 0x00010002 0 0 0 [1, 2, 3])).srcDisturbed = false
    ∧ (running .loadRaw (file 0x00100002 0x00010002 0 0 0 [1, 2, 3])).job.dataStart ≤ 21
    ∧ (running .loadRaw (file 0x00100002 0x00010002 0 0 0 [1, 2, 3])).dataEnd.toNat = 21
    ∧ (running .loadRaw (file 0x00100002 0x00010002 0 0 0 [1, 2, 3])).job.dataStart
        + (running .loadRaw (file 0x00100002 0x00010002 0 0 0 [1, 2, 3])).job.expected = 22
    ∧ (running .loadRaw (file 0x00100002 0x00010002 0 0 0 [1, 2, 3, 4])).dataEnd.toNat = 22 := by decide

theorem witness_ErrorEntryReportsTheCode : rleState.srcDisturbed = false := by decide

/-- Each way STATE can change, once, and a write to STATUS. -/
theorem witness_StateChangesOnlyAsListed :
    (nextOf (step (hostDoes (.regWrite 0x00 .word 1) State.reset))).map State.status = some .busy
    ∧ (nextOf (step emptyRegion)).map State.status = some .error
    ∧ (nextOf (step (hostDoes .reset rleState))).map State.status = some .idle
    ∧ (hostDoes (.regWrite 0x04 .word 2) State.reset).hostQueue = .regWrite 0x04 .word 2 :: [] := by decide

theorem witness_ErrIsZeroOutsideError :
    (rleState.err = 0 ↔ rleState.status ≠ .error) ∧ rleState.err.toNat ≤ 7
    ∧ (nextOf (step rleState)).isSome = true := by decide

theorem witness_ConfigurationIsFixedDuringAJob :
    (nextOf (step (hostDoes (.regWrite 0x20 .word 1) State.reset))).map State.config = some (0, 0, 0, 0, 0, 0, 1)
    ∧ (nextOf (step { rleState with phase := .derive })).isSome = true
    ∧ (nextOf (step { hostDoes (.regWrite 0x00 .word 1) State.reset with dim := 0x00010002 })).map
        (fun t => t.job.outLen) = some 8 := by decide

theorem witness_OnlyTheHostWritesSrc :
    (nextOf (step (hostDoes (.srcWrite 999 7) rleState))).map (fun t => t.srcByte 999) = some 7
    ∧ (nextOf (step (hostDoes (.srcWrite 18 7) rleState))).map (fun t => t.srcByte 18) = some 7
    ∧ rleState.srcByte 18 = 0x81 := by decide

/-- Every offset of the register block but CTRL's, at a state that is not BUSY. -/
theorem witness_RegistersReadBack :
    State.reset.status ≠ .busy ∧ 0x3C % 4 = 0 ∧ 4 ≤ 0x3C ∧ 0x3C < 0x40
    ∧ (hostDoes (.regWrite 0x04 .word 7) State.reset).hostQueue = .regWrite 0x04 .word 7 :: []
    ∧ (hostDoes (.regWrite 0x1C .word 7) State.reset).hostQueue = .regWrite 0x1C .word 7 :: []
    ∧ (hostDoes (.regWrite 0x20 .word 7) State.reset).hostQueue = .regWrite 0x20 .word 7 :: []
    ∧ (hostDoes (.regWrite 0x3C .word 7) State.reset).hostQueue = .regWrite 0x3C .word 7 :: [] := by decide

theorem witness_RegAccessForms :
    (AccessSize.byte ≠ .word ∧ 0x0A % 4 ≠ 0)
    ∧ (hostDoes (.regRead 0x08 .byte) State.reset).hostQueue = .regRead 0x08 .byte :: []
    ∧ (hostDoes (.regWrite 0x0A .word 1) State.reset).hostQueue = .regWrite 0x0A .word 1 :: []
    ∧ (0x24 % 4 = 0 ∧ 0x24 < 0x40 ∧ 0x24 ≤ 0x24 ∧ 0x20 % 4 = 0 ∧ 0x20 < 0x24)
    ∧ (hostDoes (.regRead 0x24 .word) State.reset).hostQueue = .regRead 0x24 .word :: []
    ∧ (hostDoes (.regWrite 0x24 .word 1) State.reset).hostQueue = .regWrite 0x24 .word 1 :: [] := by decide

theorem witness_RegisterWritesWhileBusyAreDropped :
    (hostDoes (.regWrite 0x00 .word 1) rleState).status = .busy ∧ 0x00 % 4 = 0 ∧ 0x00 < 0x40
    ∧ (hostDoes (.regWrite 0x00 .word 1) rleState).hostQueue = .regWrite 0x00 .word 1 :: []
    ∧ (hostDoes (.regWrite 0x3C .word 1) rleState).hostQueue = .regWrite 0x3C .word 1 :: [] := by decide

theorem witness_PollReturnsTheStatusWord :
    (hostDoes .poll State.reset).hostQueue = .poll :: [] ∧ State.reset.status ≠ .busy := by decide

theorem witness_ResetGivesTheResetTable : (hostDoes .reset rleState).hostQueue = .reset :: [] := by decide

/-- A one-pixel job that is DONE. -/
def doneState : State :=
  { onePixel 3 8 with
    status := .done, job := (onePixel 3 8).deriveJob, dst := [(0, 128), (1, 128), (2, 128), (3, 255)] }

/-- Its four output bytes, and no others, are defined. -/
theorem doneState_filled : doneState.dstFilled doneState.job.outLen := by
  intro a
  have h : doneState.job.outLen = 4 := by decide
  rw [h]
  simp only [doneState, Memory.read]
  constructor
  · intro hs
    by_contra hn
    rw [if_neg (by omega), if_neg (by omega), if_neg (by omega), if_neg (by omega)] at hs
    cases hs
  · intro ha
    obtain rfl | rfl | rfl | rfl : a = 0 ∨ a = 1 ∨ a = 2 ∨ a = 3 := by omega
    all_goals rfl

theorem doneState_inv : doneState.Inv :=
  ⟨by decide, by decide, by decide, by decide, by decide, by decide, by decide, by decide,
    fun _ _ => ⟨doneState_filled, by decide⟩⟩

/-- A one-pixel job about to complete. -/
def completing : State := { doneState with status := .busy, phase := .complete, raw := [128] }

theorem completing_inv : completing.Inv :=
  ⟨by decide, by decide, by decide, by decide, by decide, by decide, by decide, by decide,
    ⟨by decide, rfl⟩, by decide, doneState_filled⟩

/-- The same job at DONE after the host wrote SRC while it ran: what its DST bytes are is open. -/
def disturbedDone : State := { doneState with srcDisturbed := true }

/-- A job straight after reset, which CheckConfig refuses, over two pixels, with SRC written meanwhile: a free outcome
may end it DONE. -/
def disturbedRefused : State :=
  { State.reset with dim := 0x00010002 }.beginJob.hostStore 18 7

/-- Its DST has the size of the job that began, W × H × 4 = 8, though Derive has not run (R29, R44): offset 7 reads as a
free value and offset 8 does not exist. -/
theorem test_disturbed_done_size :
    checkConfig disturbedRefused = some .unsupportedImageType ∧ disturbedRefused.srcDisturbed = true
    ∧ { disturbedRefused with status := .done }.dstSize = 8 := by decide

/-- One state for each clause: the last byte at DONE, the same of a disturbed job, and a read while BUSY. -/
theorem witness_DstIsReadOnlyAtDone :
    ((hostDoes (.dstRead 3) doneState).hostQueue = .dstRead 3 :: [] ∧ (hostDoes (.dstRead 3) doneState).Inv
      ∧ doneState.status = .done ∧ doneState.srcDisturbed = false ∧ 3 < doneState.job.outLen
      ∧ 3 < doneState.caps.dst ∧ Memory.read doneState.dst 3 = some 255)
    ∧ ((hostDoes (.dstRead 3) disturbedDone).hostQueue = .dstRead 3 :: [] ∧ disturbedDone.srcDisturbed = true
      ∧ disturbedDone.status = .done ∧ 3 < disturbedDone.job.outLen ∧ 3 < disturbedDone.caps.dst)
    ∧ (rleState.status ≠ .done ∧ 999 < rleState.caps.dst
      ∧ (hostDoes (.dstRead 999) rleState).hostQueue = .dstRead 999 :: []) := by
  refine ⟨⟨rfl, inv_hostQueue doneState_inv _, by decide⟩, by decide, by decide⟩

theorem witness_SrcWriteWhileBusyLeavesTheEndOpen :
    (hostDoes (.srcWrite 999 7) rleState).hostQueue = .srcWrite 999 7 :: [] ∧ 999 < rleState.caps.src
    ∧ { rleState with srcDisturbed := true }.srcDisturbed = true := by decide

theorem witness_SrcReadsReturnTheByte :
    (hostDoes (.srcRead 999) doneState).hostQueue = .srcRead 999 :: [] ∧ 999 < doneState.caps.src
    ∧ doneState.status ≠ .busy ∧ rleState.status = .busy
    ∧ (hostDoes (.srcRead 999) rleState).hostQueue = .srcRead 999 :: [] ∧ 999 < rleState.caps.src := by decide

theorem witness_AccessesOutsideTheSpacesFault :
    0x40 % 4 = 0 ∧ rleState.caps.src ≤ 1000 ∧ rleState.caps.dst ≤ 1000 ∧ rleState.status ≠ .done
    ∧ doneState.job.outLen ≤ 4 ∧ doneState.status = .done
    ∧ (hostDoes (.regRead 0x40 .word) doneState).hostQueue = .regRead 0x40 .word :: []
    ∧ (hostDoes (.regWrite 0x40 .word 1) doneState).hostQueue = .regWrite 0x40 .word 1 :: []
    ∧ (hostDoes (.srcRead 1000) doneState).hostQueue = .srcRead 1000 :: []
    ∧ (hostDoes (.srcWrite 1000 1) doneState).hostQueue = .srcWrite 1000 1 :: []
    ∧ (hostDoes (.dstRead 4) doneState).hostQueue = .dstRead 4 :: []
    ∧ (hostDoes (.dstRead 1000) rleState).hostQueue = .dstRead 1000 :: [] := by decide

/-- The decode phase meets the invariant. -/
theorem rleState_inv : rleState.Inv := by
  refine ⟨by decide, by decide, by decide, by decide, by decide, by decide, by decide, by decide, ?_⟩
  refine ⟨⟨by decide, rfl⟩, by decide, rfl, by decide, by decide, by decide, Nat.one_dvd _⟩

theorem witness_CountersFitTheirWidths : rleState.configured ∧ rleState.Inv ∧ rleState.phase = .rle
    ∧ 65535 < 65536 ∧ 0 < rleState.height ∧ 3 < rleState.width ∧ 128 ≤ 128 :=
  ⟨⟨by decide, rfl⟩, rleState_inv, rfl, by decide⟩

theorem witness_ResetMeetsTheInvariant :
    ({ src := 18, dst := 0 } : Capacities).legal ∧ Config.largestCapacities.legal := by decide

theorem witness_EveryStepKeepsTheInvariant : rleState.Inv ∧ (nextOf (step rleState)).isSome = true :=
  ⟨rleState_inv, by decide⟩

theorem witness_TheEngineNeverStops : rleState.Inv ∧ engineMoves rleState := ⟨rleState_inv, .inl rfl⟩

/-- With the host waiting, and with the host polling. -/
theorem witness_EveryJobEnds :
    (rleState.Inv ∧ rleState.status = .busy ∧ hostWaits rleState.hostQueue)
    ∧ (hostDoes .poll rleState).Inv ∧ (hostDoes .poll rleState).status = .busy
    ∧ hostWaits (hostDoes .poll rleState).hostQueue :=
  ⟨⟨rleState_inv, rfl, .inl rfl⟩, inv_hostQueue rleState_inv _, rfl, .inr rfl⟩

/-- Another SRC with the same bytes from 18 to SRC_LEN and other bytes elsewhere. -/
theorem witness_BytesOutsideTheFileNeverMatter :
    rleState.Inv ∧ engineMoves rleState
    ∧ (∀ a, 18 ≤ a → a < rleState.srcLen.toNat →
        ({ rleState with src := (3, 9) :: rleState.src ++ [(500, 9)] } : State).srcByte a = rleState.srcByte a) := by
  refine ⟨rleState_inv, .inl rfl, ?_⟩
  have h : ∀ k : Fin 6, ({ rleState with src := (3, 9) :: rleState.src ++ [(500, 9)] } : State).srcByte (18 + k.val)
      = rleState.srcByte (18 + k.val) := by decide
  intro a h1 h2
  have h2 : a < 24 := h2
  have := h ⟨a - 18, by omega⟩
  rwa [show 18 + (a - 18) = a by omega] at this

theorem witness_ZeroSizedImagesAreEmpty :
    checkConfig (file 0x0018000A 0x00050000 0 0 0 []) = none ∧ (file 0x0018000A 0x00050000 0 0 0 []).width = 0
    ∧ checkConfig (file 0x00180002 0x00000005 0 0 0 []) = none
    ∧ (file 0x00180002 0x00000005 0 0 0 []).height = 0 := by decide

/-- The job that reaches DONE undisturbed; disturbed, its end is the free outcome's, and its invariant holds too. -/
theorem witness_AtDoneEveryOutputByteIsDefined :
    completing.Inv ∧ completing.status = .busy
    ∧ (nextOf (step completing)).map (fun t => (t.status, t.srcDisturbed)) = some (.done, false)
    ∧ { completing with srcDisturbed := true }.Inv := by
  refine ⟨completing_inv, rfl, by decide, ?_⟩
  exact ⟨completing_inv.1, completing_inv.2, completing_inv.3, completing_inv.4, completing_inv.5, completing_inv.6,
    completing_inv.7, completing_inv.8, completing_inv.9⟩

/-- A START to come right after reset, and a START and then a poll over P4's second file. -/
def startState : State := hostDoes (.regWrite 0x00 .word 1) State.reset
def startP4 : State :=
  { file 0x2008000B 0x00010004 0 0 0 [0x81, 0x10, 0x01, 0x20, 0x30, 0x40] with
    hostQueue := [.regWrite 0x00 .word 1, .poll] }

/-- Both cases of the conclusion, and both ways for the host to wait: E-1 ends in code 4, and P4, polled, in DONE. -/
theorem witness_JobsRefineTheReference :
    (startState.Inv ∧ startState.status ≠ .busy ∧ (1#32)[0] = true
      ∧ startState.hostQueue = .regWrite 0x00 .word 1 :: [] ∧ hostWaits []
      ∧ refJob startState = .error .unsupportedImageType)
    ∧ (startP4.Inv ∧ startP4.status ≠ .busy ∧ startP4.hostQueue = .regWrite 0x00 .word 1 :: [.poll]
      ∧ hostWaits [.poll]
      ∧ refJob startP4 = .ok [0x10, 0x10, 0x10, 0xFF, 0x10, 0x10, 0x10, 0xFF,
                              0x20, 0x20, 0x20, 0xFF, 0x30, 0x30, 0x30, 0xFF]) := by
  refine ⟨⟨⟨by decide, by decide, by decide, by decide, by decide, by decide, by decide, by decide, ?_⟩,
      by decide, by decide, rfl, .inl rfl, by decide⟩,
    ⟨⟨by decide, by decide, by decide, by decide, by decide, by decide, by decide, by decide, ?_⟩,
      by decide, rfl, .inr rfl, by decide⟩⟩
  all_goals (intro h; cases h)

end Sys2Proof.Tests
end

section
/-! A job from its START to its end, against the pure function of R10: what a waiting host's run reaches, the reference
semantics piece by piece, and one lemma per phase of R78, from the last phase back to the first. -/

namespace Sys2Proof.Machine

/-! ### Runs -/

/-- Some number of steps leads from `s` to `t`. -/
def Reaches (s t : State) : Prop := ∃ n, Host.Core.run Sys2Proof.core n s = .next t

theorem Reaches.refl (s : State) : Reaches s s := ⟨0, rfl⟩

theorem Reaches.head {s u t : State} (h : step s = .next u) (hr : Reaches u t) : Reaches s t := by
  obtain ⟨n, hn⟩ := hr
  refine ⟨n + 1, ?_⟩
  have h' : Sys2Proof.core.step s = .next u := h
  simp only [Host.Core.run, h', hn]

/-- An undisturbed job runs, and the host waits or polls. -/
structure State.Running (s : State) : Prop where
  busy : s.status = .busy
  undisturbed : s.srcDisturbed = false
  waits : hostWaits s.hostQueue

/-- The job keeps running over a turn that leaves STATE = BUSY. -/
theorem State.Running.turn {s t : State} (h : s.Running) (ht : engineTurn s = .next t) (hb : t.status = .busy) :
    t.Running := by
  obtain ⟨-, -, -, hq, hd, -⟩ := engineTurn_frame ht
  exact ⟨hb, hd.trans h.undisturbed, hq ▸ h.waits⟩

/-- What the host finds when a job has ended with the result `r` of R10. -/
def State.Shows (t : State) : Except JobError (List Byte) → Prop
  | .ok bs => t.status = .done ∧ t.err = 0 ∧ ∀ a, t.dstByte a = bs[a]?
  | .error e => t.status = .error ∧ t.err = errorCode e

/-- The job that runs in `s` ends with the result `r`, and neither its configuration nor the host's list changes. -/
def EndsAs (s : State) (r : Except JobError (List Byte)) : Prop :=
  ∃ t, Reaches s t ∧ t.config = s.config ∧ t.hostQueue = s.hostQueue ∧ t.Shows r

theorem EndsAs.of_turn {s u : State} {r : Except JobError (List Byte)} (hs : s.Running)
    (hu : engineTurn s = .next u) (h : EndsAs u r) : EndsAs s r := by
  obtain ⟨t, hr, hc, hq, hv⟩ := h
  obtain ⟨-, hc', -, hq', -⟩ := engineTurn_frame hu
  exact ⟨t, hr.head ((step_waiting hs.busy hs.waits).trans hu), hc.trans hc', hq.trans hq', hv⟩

/-- A turn that raises `e` ends the job with it (R84). -/
theorem endsAs_of_raise {s u : State} {e : JobError} (hs : s.Running) (ht : engineTurn s = .next (u.raise e)) :
    EndsAs s (.error e) := by
  refine .of_turn hs ht ⟨_, .refl _, rfl, rfl, ?_⟩
  obtain ⟨-, -, -, -, hd, -⟩ := engineTurn_frame ht
  have hu : u.srcDisturbed = false := by
    rw [← hs.undisturbed, ← hd]
    exact (endJob_srcDisturbed u (some e)).symm
  have he : endedWith u e (u.raise e) := raise_endedWith u e hu
  rw [endedWith] at he
  rw [he]
  exact ⟨rfl, rfl⟩

/-- Complete ends the job with the bytes that DST holds (R82). -/
theorem endsAs_of_complete {s : State} {bs : List Byte} (hs : s.Running) (hp : s.phase = .complete)
    (hd : ∀ a, Memory.read s.dst a = bs[a]?) : EndsAs s (.ok bs) := by
  refine .of_turn hs (engineTurn_complete hs.busy hp) ⟨_, .refl _, rfl, rfl, ?_⟩
  rw [complete_eq s hs.undisturbed]
  refine ⟨rfl, rfl, fun a => ?_⟩
  rw [← hd a]
  exact if_pos ⟨rfl, hs.undisturbed⟩

/-! ### The reference semantics -/

theorem dataEnd_congr {s t : State} (hr : t.config = s.config) : t.dataEnd = s.dataEnd := congrArg (·.2.1) hr
theorem dim_congr {s t : State} (hr : t.config = s.config) : t.dim = s.dim := congrArg (·.2.2.1) hr
theorem format_congr {s t : State} (hr : t.config = s.config) : t.format = s.format := congrArg (·.2.2.2.1) hr

theorem width_congr {s t : State} (hr : t.config = s.config) : t.width = s.width := by
  simp only [State.width, dim_congr hr]

theorem height_congr {s t : State} (hr : t.config = s.config) : t.height = s.height := by
  simp only [State.height, dim_congr hr]

theorem isRle_congr {s t : State} (hr : t.config = s.config) : t.isRle = s.isRle := by
  unfold State.isRle State.imageType
  rw [format_congr hr]

theorem srcRow_congr {s t : State} (hr : t.config = s.config) (r : Nat) : t.srcRow r = s.srcRow r := by
  unfold State.srcRow State.topToBottom State.descriptor
  rw [format_congr hr, height_congr hr]

theorem srcByte_congr {s t : State} (hs : t.src = s.src) (a : Nat) : t.srcByte a = s.srcByte a := by
  simp only [State.srcByte, hs]

/-- Resolving reads the registers, SRC and the given per-job quantities, and nothing else of the state. -/
theorem refResolveUnit_congr {s t : State} (hr : t.config = s.config) (hs : t.src = s.src) (j : JobParams)
    (u : List Byte) : refResolveUnit t j u = refResolveUnit s j u := by
  cases s
  cases t
  simp only [State.config, Prod.mk.injEq] at hr hs
  obtain ⟨rfl, rfl, rfl, rfl, rfl, rfl, rfl⟩ := hr
  subst hs
  rfl

theorem refResolve_congr {s t : State} (hr : t.config = s.config) (hs : t.src = s.src) (j : JobParams)
    (raw : List Byte) (ps : List (Nat × Nat)) : refResolve t j raw ps = refResolve s j raw ps := by
  induction ps with
  | nil => rfl
  | cons p ps ih =>
    simp only [refResolve, ih, refResolveUnit_congr hr hs, srcRow_congr hr, width_congr hr]

theorem refDecodeRle_congr {s t : State} (hr : t.config = s.config) (hs : t.src = s.src) (j : JobParams)
    (fuel rd : Nat) (raw : List Byte) : refDecodeRle t j fuel rd raw = refDecodeRle s j fuel rd raw := by
  have hb : ∀ a n, t.srcBytes a n = s.srcBytes a n := fun a n => srcBytes_congr fun j _ => srcByte_congr hs _
  induction fuel generalizing rd raw with
  | zero => rfl
  | succ fuel ih => simp only [refDecodeRle, ih, dataEnd_congr hr, hb, srcByte_congr hs]

/-- One packet of the reference decoder, in the terms of the packet loop's turn (R55 to R60). -/
theorem refDecodeRle_succ (s : State) (fuel rd : Nat) (raw : List Byte) :
    refDecodeRle s s.job (fuel + 1) rd raw =
      if s.job.expected ≤ raw.length then .ok raw
      else if s.dataEnd.toNat ≤ rd then .error .truncatedStream
      else if s.job.expected < raw.length + packetCount (s.srcByte rd) * s.job.unitSize
          ∨ s.dataEnd.toNat < rd + 1 + packetNeed s (s.srcByte rd) then .error .truncatedStream
      else refDecodeRle s s.job fuel (rd + 1 + packetNeed s (s.srcByte rd))
        (raw ++ packetBytes s (s.srcByte rd) (rd + 1)) := by
  simp only [refDecodeRle, packetNeed, packetBytes]
  by_cases h : s.job.expected < raw.length + packetCount (s.srcByte rd) * s.job.unitSize
  · simp only [h, if_true, true_or]
  · by_cases hb : (s.srcByte rd)[7] = true <;> simp only [h, hb, if_true, if_false, false_or, Bool.false_eq_true]

theorem refResolve_cons_quad {s : State} {j : JobParams} {raw : List Byte} {r c : Nat} {q : Rgba}
    (h : refResolveUnit s j ((raw.drop ((s.srcRow r * s.width + c) * j.unitSize)).take j.unitSize) = .quad q)
    (ps : List (Nat × Nat)) :
    refResolve s j raw ((r, c) :: ps) = (refResolve s j raw ps).map (Rgba.bytes q ++ ·) := by
  simp only [refResolve, h]
  cases refResolve s j raw ps <;> rfl

theorem refResolve_cons_raises {s : State} {j : JobParams} {raw : List Byte} {r c : Nat} {e : JobError}
    (h : refResolveUnit s j ((raw.drop ((s.srcRow r * s.width + c) * j.unitSize)).take j.unitSize) = .raises e)
    (ps : List (Nat × Nat)) : refResolve s j raw ((r, c) :: ps) = .error e := by
  simp only [refResolve, h]

/-- Each pixel gives four bytes (R35). -/
theorem refResolve_length {s : State} {j : JobParams} {raw bs : List Byte} {ps : List (Nat × Nat)}
    (h : refResolve s j raw ps = .ok bs) : bs.length = ps.length * 4 := by
  induction ps generalizing bs with
  | nil => cases h; rfl
  | cons p ps ih =>
    simp only [refResolve] at h
    split at h
    · split at h
      next hps =>
        cases h
        simp only [List.length_append, ih hps, Rgba.bytes, List.length_cons, List.length_nil]
        omega
      · cases h
    · cases h
    · cases h

/-- The job of R78 from where RAW, or the error met on the way to it, is known. -/
def refAfterRaw (s : State) (j : JobParams) : Except JobError (List Byte) → Except JobError (List Byte)
  | .error e => .error e
  | .ok raw => refResolve s j raw (pixelOrder s.width s.height)

theorem refAfterRaw_congr {s t : State} (hr : t.config = s.config) (hs : t.src = s.src) (j : JobParams)
    (r : Except JobError (List Byte)) : refAfterRaw t j r = refAfterRaw s j r := by
  cases r with
  | error e => rfl
  | ok raw => simp only [refAfterRaw, refResolve_congr hr hs, width_congr hr, height_congr hr]

theorem refAfterRaw_length {s : State} {j : JobParams} {r : Except JobError (List Byte)} {bs : List Byte}
    (h : refAfterRaw s j r = .ok bs) : bs.length = s.width * s.height * 4 := by
  cases r with
  | error e => cases h
  | ok raw => rw [refResolve_length h, pixelOrder_length]

theorem refJob_of_fails {s : State} {e : JobError} (h : checkConfig s = some e) : refJob s = .error e := by
  simp only [refJob, h]

/-- The reference of a job whose configuration passes (R78). -/
theorem refJob_of_passes {s : State} (h : checkConfig s = none) :
    refJob s = refAfterRaw s s.deriveJob
      (if s.isRle then refDecodeRle s s.deriveJob (s.deriveJob.expected + 1) s.deriveJob.dataStart []
        else refLoadRaw s s.deriveJob) := by
  simp only [refJob, h]
  split <;> simp only [refAfterRaw, *]

/-- R10: the result of a job depends on the parameters, the configuration and SRC alone. -/
theorem refJob_congr {s t : State} (hc : t.caps = s.caps) (hr : t.config = s.config) (hs : t.src = s.src) :
    refJob t = refJob s := by
  obtain ⟨h1, h2⟩ := checkConfig_congr hc hr
  have hl : refLoadRaw t s.deriveJob = refLoadRaw s s.deriveJob := by
    simp only [refLoadRaw, State.srcBytes, dataEnd_congr hr, srcByte_congr hs]
  cases h : checkConfig s with
  | some e => rw [refJob_of_fails h, refJob_of_fails (h1.trans h)]
  | none =>
    rw [refJob_of_passes h, refJob_of_passes (h1.trans h), h2, isRle_congr hr, hl, refDecodeRle_congr hr hs,
      refAfterRaw_congr hr hs]

/-- A job that ends without error makes W × H × 4 bytes (R20). -/
theorem refJob_length {s : State} {bs : List Byte} (h : refJob s = .ok bs) :
    bs.length = s.width * s.height * 4 := by
  cases hc : checkConfig s with
  | some e => rw [refJob_of_fails hc] at h; cases h
  | none => exact refAfterRaw_length (refJob_of_passes hc ▸ h)

/-! ### The walk over the pixels -/

@[simp] theorem nextPixel_width (s : State) : s.nextPixel.width = s.width := by simp [State.width]
@[simp] theorem nextPixel_height (s : State) : s.nextPixel.height = s.height := by simp [State.height]

/-- The pixels that the walk has not written yet (R75). -/
def State.pixelsLeft (s : State) : List (Nat × Nat) :=
  (pixelOrder s.width s.height).drop (s.destRow * s.width + s.x)

theorem pixelsLeft_of_inside {s : State} (hr : s.destRow < s.height) (hx : s.x < s.width) :
    s.pixelsLeft = (s.destRow, s.x) :: s.nextPixel.pixelsLeft := by
  have hnext : s.nextPixel.destRow * s.width + s.nextPixel.x = s.destRow * s.width + s.x + 1 := by
    have h := pixelAddr_nextPixel hx
    simp only [State.pixelAddr, nextPixel_width] at h
    omega
  obtain ⟨hlt, hget⟩ := List.getElem?_eq_some_iff.1 (pixelOrder_getElem? hr hx)
  simp only [State.pixelsLeft, nextPixel_width, nextPixel_height, hnext]
  rw [List.drop_eq_getElem_cons hlt, hget]

theorem pixelsLeft_of_past {s : State} (hc : s.cursorOk) (h : ¬ (s.destRow < s.height ∧ s.x < s.width)) :
    s.pixelsLeft = [] := by
  refine List.drop_eq_nil_of_le ?_
  rw [pixelOrder_length]
  rcases hc with hin | ⟨hr, hx⟩ | ⟨hw, hr, hx⟩
  · exact absurd hin h
  · rw [hr, hx, Nat.mul_comm]; omega
  · simp [hw]

/-- The walk stands before the pixels it has still to write, and DST holds the bytes `pre` of those written. -/
structure State.Resolving (s : State) (pre : List Byte) : Prop where
  running : s.Running
  phase : s.phase = .resolve
  configured : s.configured
  rawFull : s.out = s.job.expected
  cursor : s.cursorOk
  holds : ∀ a, Memory.read s.dst a = pre[a]?
  length : pre.length = s.pixelAddr s.destRow s.x

/-- Writing a pixel puts its four bytes after those that DST holds. -/
theorem State.Resolving.writeNext {s : State} {pre : List Byte} {q : Rgba} (h : s.Resolving pre)
    (hr : s.destRow < s.height) (hx : s.x < s.width)
    (ht : engineTurn s = .next (s.latchUnit.writePixel q).nextPixel) :
    (s.latchUnit.writePixel q).nextPixel.Resolving (pre ++ Rgba.bytes q) where
  running := h.running.turn ht (by simp [h.running.busy])
  phase := by simp [h.phase]
  configured := configured_congr (by simp) (by simp [State.config]) (by simp) h.configured
  rawFull := by simpa [State.out] using h.rawFull
  cursor := cursorOk_nextPixel (s := s.latchUnit.writePixel q) hr hx
  holds a := by
    rw [← Memory.read_writeBytes_append h.holds, h.length]
    simp [State.pixelAddr, State.width]
  length := by
    rw [pixelAddr_nextPixel (s := s.latchUnit.writePixel q) hx]
    simp [h.length, Rgba.bytes, State.pixelAddr, State.width]

theorem map_nil_append (r : Except JobError (List Byte)) : r.map ([] ++ ·) = r := by
  cases r <;> rfl

theorem map_append_map_append (xs ys : List Byte) (r : Except JobError (List Byte)) :
    (r.map (ys ++ ·)).map (xs ++ ·) = r.map (xs ++ ys ++ ·) := by
  cases r with
  | error e => rfl
  | ok zs => simp only [Except.map, List.append_assoc]

/-- RESOLVE: the walk ends as ResolveImage does on the pixels that are left (R75). -/
theorem endsAs_of_resolving {s : State} {pre : List Byte} (h : s.Resolving pre) :
    EndsAs s ((refResolve s s.job s.raw s.pixelsLeft).map (pre ++ ·)) := by
  induction hps : s.pixelsLeft generalizing s pre with
  | nil =>
    have hpast : ¬ (s.destRow < s.height ∧ s.x < s.width) := by
      rintro ⟨hr, hx⟩
      rw [pixelsLeft_of_inside hr hx] at hps
      cases hps
    have ht : engineTurn s = .next { s with phase := .complete } := by
      rw [engineTurn_resolve h.running.busy h.phase, turnResolve, if_neg hpast]
    refine .of_turn h.running ht (endsAs_of_complete (h.running.turn ht h.running.busy) rfl fun a => ?_)
    simpa using h.holds a
  | cons p ps ih =>
    have hin : s.destRow < s.height ∧ s.x < s.width := by
      by_contra hpast
      rw [pixelsLeft_of_past h.cursor hpast] at hps
      cases hps
    obtain ⟨hr, hx⟩ := hin
    rw [pixelsLeft_of_inside hr hx] at hps
    obtain ⟨rfl, rfl⟩ := List.cons.inj hps
    rcases resolve_turn h.running.busy h.phase h.configured h.rawFull hr hx with ⟨q, hq, ht⟩ | ⟨he, ht⟩
    · have hleft : (s.latchUnit.writePixel q).nextPixel.pixelsLeft = s.nextPixel.pixelsLeft :=
        (List.cons.inj ((pixelsLeft_of_inside (s := s.latchUnit.writePixel q) hr hx).symm.trans
          (pixelsLeft_of_inside (s := s) hr hx))).2
      have hrest := ih (h.writeNext hr hx ht) hleft
      rw [refResolve_congr (t := (s.latchUnit.writePixel q).nextPixel) (s := s) (by simp [State.config]) (by simp)]
        at hrest
      rw [refResolve_cons_quad hq, map_append_map_append]
      simpa using EndsAs.of_turn h.running ht hrest
    · rw [refResolve_cons_raises he]
      exact endsAs_of_raise h.running ht

theorem pixelsLeft_beginResolve (s : State) : s.beginResolve.pixelsLeft = pixelOrder s.width s.height := by
  simp [State.pixelsLeft, State.width, State.height]

theorem cursorOk_beginResolve (s : State) : s.beginResolve.cursorOk := by
  simp only [State.cursorOk, beginResolve_destRow, beginResolve_x, and_true]
  omega

/-- A turn that begins ResolveImage over a full RAW and an empty DST ends the job as ResolveImage over all pixels. -/
theorem endsAs_of_beginResolve {s u : State} (hs : s.Running) (ht : engineTurn s = .next u.beginResolve)
    (hb : u.status = .busy) (hc : u.configured) (ho : u.out = u.job.expected) (hd : u.dst = []) :
    EndsAs s (refAfterRaw s u.job (.ok u.raw)) := by
  have hres : u.beginResolve.Resolving [] :=
    ⟨hs.turn ht hb, rfl, configured_congr rfl rfl rfl hc, ho, cursorOk_beginResolve u, fun a => by simp [hd],
      by simp [State.pixelAddr]⟩
  have h := endsAs_of_resolving hres
  obtain ⟨-, hconfig, hsrc, -⟩ := engineTurn_frame ht
  rw [pixelsLeft_beginResolve, refResolve_congr hconfig hsrc, width_congr (t := u) hconfig,
    height_congr (t := u) hconfig, map_nil_append] at h
  exact .of_turn hs ht h

/-! ### The decode phase -/

/-- LOADRAW (R81). -/
theorem endsAs_of_loadRaw {s : State} (hs : s.Running) (hp : s.phase = .loadRaw) (hc : s.configured)
    (hd : s.dst = []) : EndsAs s (refAfterRaw s s.job (refLoadRaw s s.job)) := by
  have ht := engineTurn_loadRaw hs.busy hp
  unfold stepLoadRaw at ht
  unfold refLoadRaw
  by_cases h : s.dataEnd.toNat - s.job.dataStart < s.job.expected
  · rw [if_pos h] at ht ⊢
    exact endsAs_of_raise hs ht
  · rw [if_neg h] at ht ⊢
    exact endsAs_of_beginResolve hs ht hs.busy (configured_congr rfl rfl rfl hc) (by simp [State.out]) hd

/-- The packet loop stands with `rd` and RAW, and DST is empty. -/
structure State.Decoding (s : State) : Prop where
  running : s.Running
  phase : s.phase = .rle
  configured : s.configured
  dstEmpty : s.dst = []
  rawFits : s.out ≤ s.job.expected

/-- A packet that fits leaves the loop standing. -/
theorem State.Decoding.packet {s : State} {n : Nat} {bs : List Byte} (h : s.Decoding)
    (hfit : s.out + bs.length ≤ s.job.expected) (ht : engineTurn s = .next (s.takeControl.produce n bs)) :
    (s.takeControl.produce n bs).Decoding :=
  ⟨h.running.turn ht h.running.busy, h.phase, configured_congr rfl rfl rfl h.configured, h.dstEmpty,
    by simpa [State.out] using hfit⟩

/-- DECODERLE: the packet loop ends as the reference decoder does, which has fuel for every byte still to produce
(R55 to R60, R83). -/
theorem endsAs_of_decoding {s : State} {fuel : Nat} (h : s.Decoding) (hf : s.job.expected - s.out < fuel) :
    EndsAs s (refAfterRaw s s.job (refDecodeRle s s.job fuel s.rd s.raw)) := by
  induction fuel generalizing s with
  | zero => omega
  | succ fuel ih =>
    have hcases := turnRle_cases s
    rw [← engineTurn_rle h.running.busy h.phase] at hcases
    rw [refDecodeRle_succ, show s.raw.length = s.out from rfl]
    rcases hcases with ⟨hfull, ht⟩ | ⟨hmore, hend, ht⟩ | ⟨hmore, hrd, hbad, ht⟩
      | ⟨hmore, hrd, hfit, hneed, ht⟩
    · rw [if_pos hfull]
      exact endsAs_of_beginResolve h.running ht h.running.busy h.configured (Nat.le_antisymm h.rawFits hfull) h.dstEmpty
    · rw [if_neg (by omega), if_pos hend]
      exact endsAs_of_raise h.running ht
    · rw [if_neg (by omega), if_neg (by omega), if_pos hbad]
      exact endsAs_of_raise h.running ht
    · rw [if_neg (by omega), if_neg (by omega), if_neg (by omega)]
      have hgrow : 1 ≤ packetCount (s.srcByte s.rd) * s.job.unitSize :=
        Nat.mul_pos (packetCount_range _).1 (unitSize_range h.configured).1
      have hrest := ih (h.packet (by rwa [packetBytes_length]) ht) (by
        simp only [State.out, produce_raw, produce_job, takeControl_raw, takeControl_job, List.length_append,
          packetBytes_length] at hf hmore ⊢
        omega)
      rw [refDecodeRle_congr (t := s.takeControl.produce _ _) (s := s) rfl rfl,
        refAfterRaw_congr (t := s.takeControl.produce _ _) (s := s) rfl rfl] at hrest
      exact .of_turn h.running ht hrest

/-! ### The whole job -/

/-- DERIVE (R80). -/
theorem endsAs_of_derive {s : State} (hs : s.Running) (hp : s.phase = .derive) (hc : checkConfig s = none)
    (hd : s.dst = []) : EndsAs s (refJob s) := by
  have ht := engineTurn_derive hs.busy hp
  have hrun : (stepDerive s).Running := hs.turn ht hs.busy
  have hconf : (stepDerive s).configured := ⟨hc, rfl⟩
  refine .of_turn hs ht ?_
  rw [refJob_of_passes hc, ← refAfterRaw_congr (s := s) (t := stepDerive s) rfl rfl]
  by_cases hi : s.isRle = true
  · have hdec : (stepDerive s).Decoding := ⟨hrun, by simp [hi], hconf, hd, Nat.zero_le _⟩
    rw [if_pos hi, ← refDecodeRle_congr (s := s) (t := stepDerive s) rfl rfl]
    exact endsAs_of_decoding hdec (Nat.lt_succ_of_le (Nat.sub_le _ _))
  · rw [if_neg hi]
    exact endsAs_of_loadRaw hrun (by simp [hi]) hconf hd

/-- CHECKCONFIG (R79): a job that has just begun ends as the reference says. -/
theorem endsAs_of_checkConfig {s : State} (hs : s.Running) (hp : s.phase = .checkConfig) (hd : s.dst = []) :
    EndsAs s (refJob s) := by
  have ht := engineTurn_checkConfig hs.busy hp
  unfold stepCheckConfig at ht
  cases hc : checkConfig s with
  | some e =>
    rw [refJob_of_fails hc]
    rw [hc] at ht
    exact endsAs_of_raise hs ht
  | none =>
    rw [hc] at ht
    refine .of_turn hs ht ?_
    rw [← refJob_congr (s := s) (t := { s with phase := .derive }) rfl rfl rfl]
    exact endsAs_of_derive (hs.turn ht hs.busy) rfl hc hd

/-- A host's START when the engine is not BUSY begins the job (R77). -/
theorem step_start {s : State} {v : Word} {q : List HostEvent} (hb : s.status ≠ .busy) (hv : v[0] = true)
    (hq : s.hostQueue = .regWrite 0x00 .word v :: q) : step s = .next { s with hostQueue := q }.beginJob := by
  simp [step, hq, hostTurn, regAccess, hostRegWrite, decodeStart_eq, hv, exec, execStart, hb]

/-- A poll of an engine that is not BUSY returns STATUS (R100). -/
theorem step_poll {s : State} {q : List HostEvent} (hb : s.status ≠ .busy) (hq : s.hostQueue = .poll :: q) :
    step s = .next { s with hostQueue := q, hostData := s.statusWord } := by
  simp only [step, hq, hostTurn, if_neg hb]
  rfl

theorem State.Shows.not_busy {t : State} {r : Except JobError (List Byte)} (h : t.Shows r) : t.status ≠ .busy := by
  cases r with
  | ok bs => obtain ⟨hd, -⟩ := h; simp [hd]
  | error e => obtain ⟨he, -⟩ := h; simp [he]

/-- Settles O57, phase by phase from the last to the first: every turn of a running job leaves the same end of the
reference to reach. -/
theorem jobsRefineTheReference : Obligations.JobsRefineTheReference := by
  intro s v q _ hb hv hq hw
  have hrun : State.Running { s with hostQueue := q }.beginJob := ⟨rfl, rfl, hw⟩
  have hjob : refJob (State.beginJob { s with hostQueue := q }) = refJob s := refJob_congr rfl rfl rfl
  obtain ⟨t, hreach, hconfig, hqueue, hshows⟩ := endsAs_of_checkConfig hrun rfl rfl
  rw [hjob] at hshows
  obtain ⟨n, hn⟩ := hreach.head (step_start hb hv hq)
  refine ⟨n, t, hn, hconfig, hqueue, fun r hr => step_poll hshows.not_busy (hqueue.trans hr), ?_⟩
  cases href : refJob s with
  | error e => rw [href] at hshows; exact hshows
  | ok bs =>
    rw [href] at hshows
    obtain ⟨hdone, herr, hbytes⟩ := hshows
    exact ⟨hdone, herr, refJob_length href, hbytes⟩

end Sys2Proof.Machine
end

section
/-! The widths of R7: how large each register field and each quantity derived from the fields can be. -/

namespace Sys2Proof.Machine

/-! ### Fields of the registers -/

theorem width_lt (s : State) : s.width < 2 ^ 16 := BitVec.isLt _
theorem height_lt (s : State) : s.height < 2 ^ 16 := BitVec.isLt _
theorem idLength_lt (s : State) : s.idLength < 2 ^ 8 := BitVec.isLt _
theorem cmOrigin_lt (s : State) : s.cmOrigin < 2 ^ 16 := BitVec.isLt _
theorem cmLength_lt (s : State) : s.cmLength < 2 ^ 16 := BitVec.isLt _
theorem cmEntryDepth_lt (s : State) : s.cmEntryDepth < 2 ^ 8 := BitVec.isLt _

/-! ### Derived quantities -/

/-- W × H is at most 65535 × 65535 (R7). -/
theorem area_le (s : State) : s.width * s.height ≤ 4294836225 := by
  have hw := width_lt s
  have hh := height_lt s
  exact Nat.mul_le_mul (show s.width ≤ 65535 by omega) (show s.height ≤ 65535 by omega)

/-- DATA_START is small whatever the registers hold, since a palette entry's E is at most 32 for any depth byte. -/
theorem dataStartOf_lt (s : State) : s.dataStartOf < 2 ^ 22 := by
  have hid := idLength_lt s
  have hlen := cmLength_lt s
  have hdepth := cmEntryDepth_lt s
  have hE : bytesOfBits s.cmEntryDepth ≤ 32 := by unfold bytesOfBits; omega
  have hpal : s.cmLength * bytesOfBits s.cmEntryDepth ≤ 65535 * 32 := Nat.mul_le_mul (by omega) hE
  unfold State.dataStartOf
  split <;> omega

/-- N is at most W × H × 4 in a configured job, since P is at most 4 (R7). -/
theorem expected_le {s : State} (hc : s.configured) : s.job.expected ≤ 17179344900 := by
  have hN : s.job.expected = s.width * s.height * s.job.unitSize := by rw [hc.2]; rfl
  rw [hN]
  exact Nat.mul_le_mul (area_le s) (unitSize_range hc).2

/-- E is at most 4 in a configured job. -/
theorem entrySize_le {s : State} (hc : s.configured) : s.job.entrySize ≤ 4 := by
  cases hi : s.indexed with
  | true => exact (entrySize_range hc hi).2
  | false => rw [hc.2]; simp [State.deriveJob, hi]

/-- Every palette entry ends low, whatever index a unit holds. -/
theorem entry_end_lt {s : State} (hc : s.configured) {i : Nat} (hi : i < 65536) :
    s.entryOffset i + s.job.entrySize < 2 ^ 20 := by
  have hE := entrySize_le hc
  have hbase : s.job.paletteBase = 18 + s.idLength + s.cmOrigin := by rw [hc.2]; rfl
  have hid := idLength_lt s
  have horg := cmOrigin_lt s
  have hmul : i * s.job.entrySize ≤ 65535 * 4 := Nat.mul_le_mul (by omega) hE
  unfold State.entryOffset
  omega

/-- A pixel's four bytes lie inside the output (R31). -/
theorem pixel_inside {s : State} {r c : Nat} (hr : r < s.height) (hx : c < s.width) :
    s.pixelAddr r c + 4 ≤ s.width * s.height * 4 := by
  have hrow : (r + 1) * s.width ≤ s.height * s.width := Nat.mul_le_mul_right _ hr
  rw [Nat.succ_mul, Nat.mul_comm s.height] at hrow
  unfold State.pixelAddr
  omega

/-! ### The packet loop -/

/-- In the packet loop the job is configured, `rd` has not passed DATA_END and RAW has not passed N. -/
theorem State.Inv.rle_bounds {s : State} (h : s.Inv) (hp : s.phase = .rle) :
    s.configured ∧ s.rd ≤ s.dataEnd.toNat ∧ s.out ≤ s.job.expected := by
  have hphase := h.phaseOk
  simp only [State.phaseInv, hp] at hphase
  obtain ⟨hc, -, -, -, hrd, hout, -⟩ := hphase
  exact ⟨hc, hrd, hout⟩

/-- Settles O49, from the widths of the register fields, the sizes a configured job has, and the invariant's bounds on
`rd` and `out`. -/
theorem countersFitTheirWidths : Obligations.CountersFitTheirWidths := by
  intro s
  have harea := area_le s
  have hend : s.dataEnd.toNat < 2 ^ 32 := s.dataEnd.isLt
  refine ⟨⟨width_lt s, height_lt s, harea, by omega, (dataStartOf_lt s).trans (by decide), s.srcLen.isLt, hend⟩,
    fun hc => ?_, fun hinv hp => ?_⟩
  · have hN := expected_le hc
    have hstart : s.job.dataStart < 2 ^ 22 := by rw [hc.2]; exact dataStartOf_lt s
    have hout : s.job.outLen = s.width * s.height * 4 := by rw [hc.2]; rfl
    refine ⟨hN, by omega, by omega, by omega, fun i hi => (entry_end_lt hc hi).trans (by decide),
      fun r c hr hx => ⟨?_, ?_⟩⟩
    · have hpix := pixel_inside hr hx
      omega
    · have hunit := unit_inside hc hr hx
      omega
  · obtain ⟨hc, hrd, hout⟩ := hinv.rle_bounds hp
    have hN := expected_le hc
    refine ⟨by omega, by omega, fun n hn => ?_⟩
    have hpacket : n * s.job.unitSize ≤ 128 * 4 := Nat.mul_le_mul hn (unitSize_range hc).2
    omega

end Sys2Proof.Machine
end

section
/-! What a step changes, field by field: STATE with ERR, SRC, the configuration and the per-job quantities. One lemma
each for the host's turn, and one for the step, from the inversion lemmas of both turns. -/

namespace Sys2Proof.Machine

/-- A step that answers a next state is a turn of the engine, or the event at the head of the host's queue; either is
taken from a state that differs in that queue alone. -/
theorem step_next_cases {s t : State} (h : step s = .next t) :
    (engineMoves s ∧ ∃ q, engineTurn { s with hostQueue := q } = .next t)
    ∨ ∃ e q, s.hostQueue = e :: q ∧ e ≠ .engineTurn
        ∧ ¬ (e = .poll ∧ ({ s with hostQueue := q } : State).status = .busy)
        ∧ hostTurn e { s with hostQueue := q } = .next t := by
  rcases step_cases s with ⟨hm, he⟩ | ⟨e, q, hq, hne, hnp, he⟩
  · rw [he, engineView_eq] at h
    exact .inl ⟨hm, _, h⟩
  · exact .inr ⟨e, q, hq, hne, hnp, he ▸ h⟩

/-! ### STATE and ERR -/

/-- The host changes STATE and ERR by a reset and by a START outside BUSY. -/
theorem hostTurn_status {e : HostEvent} {s t : State} (hne : e ≠ .engineTurn)
    (hnp : ¬ (e = .poll ∧ s.status = .busy)) (h : hostTurn e s = .next t) :
    (t.status = s.status ∧ t.err = s.err)
    ∨ (e = .reset ∧ t.status = .idle ∧ t.err = 0)
    ∨ (s.status ≠ .busy ∧ (∃ v, e = .regWrite 0x00 .word v ∧ v[0] = true) ∧ t.status = .busy ∧ t.err = 0) := by
  rcases hostTurn_cases hne hnp h with ⟨he, rfl⟩ | ⟨off, v, -, -, -, -, rfl⟩ | ⟨v, he, rfl | ⟨hv, hb, rfl⟩⟩
    | ⟨v, rfl⟩ | rfl | ⟨a, b, -, -, rfl⟩
  · exact .inr (.inl ⟨he, rfl, rfl⟩)
  · exact .inl ⟨writeReg_status .., writeReg_err ..⟩
  · exact .inl ⟨rfl, rfl⟩
  · exact .inr (.inr ⟨hb, ⟨v, he, hv⟩, rfl, rfl⟩)
  all_goals exact .inl ⟨rfl, rfl⟩

/-- All ways in which a step leaves or changes STATE and ERR (R14, R15). -/
theorem step_status {s t : State} (h : step s = .next t) :
    (t.status = s.status ∧ t.err = s.err)
    ∨ (engineMoves s ∧ s.status = .busy
      ∧ (t.status = .done ∧ t.err = 0 ∨ t.status = .error ∧ ∃ e, t.err = errorCode e))
    ∨ ((∃ q, s.hostQueue = .reset :: q) ∧ t.status = .idle ∧ t.err = 0)
    ∨ (s.status ≠ .busy ∧ (∃ v q, s.hostQueue = .regWrite 0x00 .word v :: q ∧ v[0] = true)
      ∧ t.status = .busy ∧ t.err = 0) := by
  rcases step_next_cases h with ⟨hm, q, ht⟩ | ⟨e, q, hq, hne, hnp, ht⟩
  · obtain ⟨-, -, -, -, -, -, -, hsame | ⟨hb, -, hend⟩⟩ := engineTurn_frame ht
    · exact .inl hsame
    · exact .inr (.inl ⟨hm, hb, hend⟩)
  · rcases hostTurn_status hne hnp ht with hsame | ⟨rfl, hreset⟩ | ⟨hb, ⟨v, rfl, hv⟩, hstart⟩
    · exact .inl hsame
    · exact .inr (.inr (.inl ⟨⟨q, hq⟩, hreset⟩))
    · exact .inr (.inr (.inr ⟨hb, ⟨v, q, hq, hv⟩, hstart⟩))

/-- Settles O37: a step leaves STATE and ERR, or sets ERR to 0 outside ERROR, or to the code of an error in ERROR. -/
theorem errIsZeroOutsideError : Obligations.ErrIsZeroOutsideError := by
  intro s t hzero hrange h
  rcases step_status h with ⟨hs, he⟩ | ⟨-, -, ⟨hs, he⟩ | ⟨hs, e, he⟩⟩ | ⟨-, hs, he⟩ | ⟨-, -, hs, he⟩
  · rw [hs, he]
    exact ⟨hzero, hrange⟩
  · simp [hs, he]
  · rw [hs, he]
    exact ⟨by simpa using errorCode_ne_zero e, (errorCode_range e).2⟩
  · simp [hs, he]
  · simp [hs, he]

/-! ### The registers -/

/-- A register write is dropped while BUSY, and at the offsets of CTRL, STATUS and past ATTR (R12, R101). -/
theorem writeReg_ignored {s : State} {off : Nat} (v : Word) (h : s.status = .busy ∨ off < 0x08 ∨ 0x20 < off) :
    s.writeReg off v = s := by
  rcases h with hb | hoff
  · exact writeReg_busy s off v hb
  · simp only [State.writeReg, show off ≠ 0x08 by omega, show off ≠ 0x0C by omega, show off ≠ 0x10 by omega,
      show off ≠ 0x14 by omega, show off ≠ 0x18 by omega, show off ≠ 0x1C by omega, show off ≠ 0x20 by omega,
      if_false, ite_self]

/-- A host's 32-bit write to an aligned offset of REG other than CTRL is the register write. -/
theorem step_regWrite {s : State} {off : Nat} {v : Word} {q : List HostEvent}
    (hq : s.hostQueue = .regWrite off .word v :: q) (hal : off % 4 = 0) (h0 : off ≠ 0) (hlt : off < 0x40) :
    step s = .next (State.writeReg { s with hostQueue := q } off v) := by
  simp [step, hq, hostTurn, regAccess, hostRegWrite, hal, h0, Nat.not_le.2 hlt]

/-- Settles O36, from the ways a step can change STATE. -/
theorem stateChangesOnlyAsListed : Obligations.StateChangesOnlyAsListed := by
  refine ⟨⟨rfl, rfl, rfl, rfl⟩, fun s v q hq => ?_, fun s t h hne => ?_⟩
  · rw [step_regWrite hq (by decide) (by decide) (by decide), writeReg_ignored v (.inr (.inl (by decide)))]
  · rcases step_status h with ⟨hs, -⟩ | ⟨hm, hb, hend⟩ | ⟨hq, hs, -⟩ | ⟨hb, hq, hs, -⟩
    · exact absurd hs hne
    · exact .inr (.inl ⟨hb, hend.imp And.left And.left, hm⟩)
    · exact .inr (.inr ⟨hs, hq⟩)
    · exact .inl ⟨hs, hb, hq⟩

/-- What the host changes of the configuration and the per-job quantities: a reset both, a register write outside BUSY
the configuration, and a START the output size. -/
theorem hostTurn_config {e : HostEvent} {s t : State} (hne : e ≠ .engineTurn)
    (hnp : ¬ (e = .poll ∧ s.status = .busy)) (h : hostTurn e s = .next t) :
    t.caps = s.caps
    ∧ (t.config ≠ s.config → e = .reset
      ∨ (s.status ≠ .busy ∧ ∃ off v, e = .regWrite off .word v ∧ 0x08 ≤ off ∧ off ≤ 0x20))
    ∧ (t.job ≠ s.job → e = .reset
      ∨ (s.status ≠ .busy ∧ (∃ v, e = .regWrite 0x00 .word v ∧ v[0] = true)
        ∧ t.job = { s.job with outLen := s.width * s.height * 4 })) := by
  rcases hostTurn_cases hne hnp h with ⟨he, rfl⟩ | ⟨off, v, he, -, -, -, rfl⟩ | ⟨v, he, rfl | ⟨hv, hb, rfl⟩⟩
    | ⟨v, rfl⟩ | rfl | ⟨a, b, -, -, rfl⟩
  · exact ⟨rfl, fun _ => .inl he, fun _ => .inl he⟩
  · refine ⟨writeReg_caps .., fun hc => .inr ?_, fun hj => absurd (writeReg_job ..) hj⟩
    have hkept : ¬ (s.status = .busy ∨ off < 0x08 ∨ 0x20 < off) := fun hi => hc (by rw [writeReg_ignored v hi])
    simp only [not_or, Nat.not_lt] at hkept
    exact ⟨hkept.1, off, v, he, hkept.2⟩
  · exact ⟨rfl, fun hc => absurd rfl hc, fun hj => absurd rfl hj⟩
  · exact ⟨rfl, fun hc => absurd rfl hc, fun _ => .inr ⟨hb, ⟨v, he, hv⟩, rfl⟩⟩
  all_goals exact ⟨rfl, fun hc => absurd rfl hc, fun hj => absurd rfl hj⟩

/-- Settles O38: the engine's turn keeps the configuration and changes the per-job quantities in Derive only; the rest
is the host's. -/
theorem configurationIsFixedDuringAJob : Obligations.ConfigurationIsFixedDuringAJob := by
  intro s t h
  rcases step_next_cases h with ⟨-, q, ht⟩ | ⟨e, q, hq, hne, hnp, ht⟩
  · obtain ⟨hcaps, hconfig, -, -, -, -, hjob, -⟩ := engineTurn_frame ht
    exact ⟨hcaps, fun hc => absurd hconfig hc, fun hj => .inr (.inl (hjob hj))⟩
  · obtain ⟨hcaps, hconfig, hjob⟩ := hostTurn_config hne hnp ht
    refine ⟨hcaps, fun hc => ?_, fun hj => ?_⟩
    · rcases hconfig hc with rfl | ⟨hb, off, v, rfl, hoff⟩
      · exact .inl ⟨q, hq⟩
      · exact .inr ⟨hb, off, v, q, hq, hoff⟩
    · rcases hjob hj with rfl | ⟨hb, ⟨v, rfl, hv⟩, hout⟩
      · exact .inl ⟨q, hq⟩
      · exact .inr (.inr ⟨hb, ⟨v, q, hq, hv⟩, hout⟩)

/-! ### SRC -/

/-- A step leaves SRC, or stores one byte inside its capacity (R29, R30). -/
theorem step_src {s t : State} (h : step s = .next t) :
    t.src = s.src ∨ ∃ a b, a < s.caps.src ∧ t.src = Memory.write s.src a b := by
  rcases step_next_cases h with ⟨-, q, ht⟩ | ⟨e, q, -, hne, hnp, ht⟩
  · obtain ⟨-, -, hsrc, -⟩ := engineTurn_frame ht
    exact .inl hsrc
  · rcases hostTurn_cases hne hnp ht with ⟨-, rfl⟩ | ⟨off, v, -, -, -, -, rfl⟩ | ⟨v, -, rfl | ⟨-, -, rfl⟩⟩
      | ⟨v, rfl⟩ | rfl | ⟨a, b, -, ha, rfl⟩
    · exact .inl rfl
    · exact .inl (writeReg_src ..)
    · exact .inl rfl
    · exact .inl rfl
    · exact .inl rfl
    · exact .inl rfl
    · exact .inr ⟨a, b, ha, rfl⟩

end Sys2Proof.Machine
end

section
/-! The invariant: what each turn of the engine and of the host makes of the job's own state, phase by phase, and from
it that every step keeps `State.Inv`. -/

namespace Sys2Proof.Machine

/-! ### How DST fills -/

/-- Storing bytes lists their offsets, and keeps the others. -/
theorem Memory.isSome_read_writeBytes (m : Memory) (a : Nat) (bs : List Byte) (k : Nat) :
    (Memory.read (Memory.writeBytes m a bs) k).isSome = true
      ↔ (Memory.read m k).isSome = true ∨ (a ≤ k ∧ k < a + bs.length) := by
  by_cases hk : a ≤ k ∧ k < a + bs.length
  · have hin := Memory.read_writeBytes_inside m a bs (k - a) (by omega)
    rw [Nat.add_sub_of_le hk.1] at hin
    simp [hin, hk]
  · rw [Memory.read_writeBytes_outside m a bs k (by omega)]
    simp [hk]

/-- The pixel at the walk's place goes right after the bytes that DST holds. -/
theorem dstFilled_nextPixel {s : State} (q : Rgba) (hx : s.x < s.width)
    (h : s.dstFilled (s.pixelAddr s.destRow s.x)) :
    (s.writePixel q).nextPixel.dstFilled
      ((s.writePixel q).nextPixel.pixelAddr (s.writePixel q).nextPixel.destRow (s.writePixel q).nextPixel.x) := by
  intro a
  rw [pixelAddr_nextPixel (s := s.writePixel q) hx, nextPixel_dst]
  have hwrite := Memory.isSome_read_writeBytes s.dst (s.pixelAddr s.destRow s.x) (Rgba.bytes q) a
  rw [h a] at hwrite
  refine hwrite.trans ?_
  show _ ↔ a < s.pixelAddr s.destRow s.x + 4
  simp only [Rgba.bytes, List.length_cons, List.length_nil]
  omega

/-- Past its last pixel the walk stands at the end of the output (R31). -/
theorem pixelAddr_of_past {s : State} (hc : s.cursorOk) (h : ¬ (s.destRow < s.height ∧ s.x < s.width)) :
    s.pixelAddr s.destRow s.x = s.width * s.height * 4 := by
  rcases hc with hin | ⟨hr, hx⟩ | ⟨hw, hr, hx⟩
  · exact absurd hin h
  · simp [State.pixelAddr, hr, hx, Nat.mul_comm s.height]
  · simp [State.pixelAddr, hw, hr, hx]

/-- The output of a configured job fits DST (R6, R79). -/
theorem configured_outLen {s : State} (hc : s.configured) :
    s.job.outLen = s.width * s.height * 4 ∧ s.job.outLen ≤ s.caps.dst := by
  obtain ⟨-, -, -, -, hfit, -⟩ := checkConfig_none hc.1
  have hout : s.job.outLen = s.width * s.height * 4 := by rw [hc.2]; rfl
  exact ⟨hout, hout ▸ hfit⟩

/-! ### The phases -/

/-- DERIVE: the packet loop begins at DATA_START with an empty RAW, a raw image goes to LoadRaw (R55, R80). -/
theorem phaseInv_stepDerive {s : State} (hc : checkConfig s = none) (hd : s.dst = []) :
    (stepDerive s).phaseInv := by
  have hconf : (stepDerive s).configured := ⟨hc, rfl⟩
  obtain ⟨-, -, -, -, -, hstart, -⟩ := checkConfig_none hc
  unfold State.phaseInv
  rw [stepDerive_phase]
  cases hi : s.isRle with
  | true => exact ⟨hconf, hi, hd, Nat.le_refl _, hstart, Nat.zero_le _, Nat.dvd_zero _⟩
  | false => exact ⟨hconf, hi, hd⟩

/-- RLE: a packet that fits moves `rd` forward inside the region and keeps RAW a list of whole units (R56, R57). -/
theorem phaseInv_packet {s : State} {cb : Byte} {need : Nat} {bs : List Byte} (hp : s.phase = .rle)
    (h : s.phaseInv) (hlen : bs.length = packetCount cb * s.job.unitSize)
    (hfit : s.out + packetCount cb * s.job.unitSize ≤ s.job.expected) (hneed : s.rd + 1 + need ≤ s.dataEnd.toNat) :
    (s.takeControl.produce need bs).phaseInv := by
  simp only [State.phaseInv, hp] at h
  obtain ⟨hc, hr, hd, hstart, -, -, hdvd⟩ := h
  have hout : (s.takeControl.produce need bs).out = s.out + packetCount cb * s.job.unitSize := by
    simp [State.out, hlen]
  unfold State.phaseInv
  simp only [produce_phase, takeControl_phase, hp, hout]
  exact ⟨configured_congr rfl rfl rfl hc, hr, hd, Nat.le_trans hstart (by simp only [produce_rd, takeControl_rd]; omega),
    hneed, hfit, Nat.dvd_add hdvd (Nat.dvd_mul_left _ _)⟩

/-- RESOLVE begins at pixel (0, 0) with nothing in DST (R75). -/
theorem phaseInv_beginResolve {s : State} (hc : s.configured) (ho : s.out = s.job.expected) (hd : s.dst = []) :
    s.beginResolve.phaseInv :=
  ⟨configured_congr rfl rfl rfl hc, ho, cursorOk_beginResolve s, fun a => by simp [hd, State.pixelAddr]⟩

/-- RESOLVE: a pixel is written and the walk moves on (R75). -/
theorem phaseInv_nextPixel {s : State} (q : Rgba) (hp : s.phase = .resolve) (h : s.phaseInv)
    (hr : s.destRow < s.height) (hx : s.x < s.width) : (s.latchUnit.writePixel q).nextPixel.phaseInv := by
  simp only [State.phaseInv, hp] at h
  obtain ⟨hc, ho, -, hfill⟩ := h
  unfold State.phaseInv
  simp only [nextPixel_phase, writePixel_phase, latchUnit_phase, hp]
  exact ⟨configured_congr (by simp) (by simp [State.config]) (by simp) hc, by simpa [State.out] using ho,
    cursorOk_nextPixel (s := s.latchUnit.writePixel q) hr hx, dstFilled_nextPixel (s := s.latchUnit) q hx hfill⟩

/-- COMPLETE follows once the walk is past the last pixel, and then DST holds the whole output (R78, R82). -/
theorem phaseInv_complete {s : State} (hp : s.phase = .resolve) (h : s.phaseInv)
    (hpast : ¬ (s.destRow < s.height ∧ s.x < s.width)) : ({ s with phase := .complete } : State).phaseInv := by
  simp only [State.phaseInv, hp] at h
  obtain ⟨hc, ho, hcur, hfill⟩ := h
  rw [pixelAddr_of_past hcur hpast, ← (configured_outLen hc).1] at hfill
  exact ⟨configured_congr rfl rfl rfl hc, ho, hfill⟩

/-! ### The job's part of the invariant -/

/-- The clauses of the invariant that depend on the phase of the job. The other clauses are about SRC, the parameters
and ERR, and `src_step`, `configurationIsFixedDuringAJob` and `errIsZeroOutsideError` give them for every step. -/
structure State.JobInv (s : State) : Prop where
  dstWf : Memory.wf s.dst
  busyPhase : s.status = .busy ↔ s.phase ≠ .noJob
  outLenOk : s.status = .busy → s.job.outLen = s.width * s.height * 4
  phaseOk : s.phaseInv

theorem State.Inv.jobInv {s : State} (h : s.Inv) : s.JobInv := ⟨h.dstWf, h.busyPhase, h.outLenOk, h.phaseOk⟩

/-- Outside BUSY no job runs, and an undisturbed DONE has its output. -/
theorem State.Inv.idle {s : State} (h : s.Inv) (hb : s.status ≠ .busy) :
    s.phase = .noJob
    ∧ (s.status = .done → s.srcDisturbed = false → s.dstFilled s.job.outLen ∧ s.job.outLen ≤ s.caps.dst) := by
  have hp : s.phase = .noJob := by
    by_contra hne
    exact hb (h.busyPhase.2 hne)
  have hok := h.phaseOk
  simp only [State.phaseInv, hp] at hok
  exact ⟨hp, hok⟩

theorem State.JobInv.of_idle {t : State} (hd : Memory.wf t.dst) (hs : t.status ≠ .busy) (hp : t.phase = .noJob)
    (hok : t.status = .done → t.srcDisturbed = false → t.dstFilled t.job.outLen ∧ t.job.outLen ≤ t.caps.dst) :
    t.JobInv where
  dstWf := hd
  busyPhase := by simp [hs, hp]
  outLenOk hb := absurd hb hs
  phaseOk := by simpa only [State.phaseInv, hp] using hok

/-- An undisturbed job ends in DONE only by Complete (R82, R84). -/
theorem endJob_done {s : State} {r : Option JobError} (hd : s.srcDisturbed = false)
    (h : (s.endJob r).status = .done) : r = none := by
  cases r with
  | none => rfl
  | some e =>
    have he : endedWith s e (s.endJob (some e)) := raise_endedWith s e hd
    rw [endedWith] at he
    rw [he] at h
    cases h

/-- The end of a job: at an undisturbed DONE the job was at Complete, so DST holds its output. -/
theorem jobInv_endJob {s s' : State} {r : Option JobError} (h : s.Inv) (hd : s'.dst = s.dst)
    (hr : r = none → s.phase = .complete ∧ s' = s) : (s'.endJob r).JobInv := by
  have hstatus := endJob_status_err s' r
  refine .of_idle (by rw [endJob_dst, hd]; exact h.dstWf) ?_ (endJob_phase s' r) fun hdone hund => ?_
  · rcases hstatus with ⟨hs, -⟩ | ⟨hs, -⟩ <;> simp [hs]
  · rw [endJob_srcDisturbed] at hund
    obtain ⟨hp, rfl⟩ := hr (endJob_done hund hdone)
    have hok := h.phaseOk
    simp only [State.phaseInv, hp] at hok
    obtain ⟨hc, -, hfill⟩ := hok
    simp only [State.dstFilled, endJob_dst, endJob_job, endJob_caps]
    exact ⟨hfill, (configured_outLen hc).2⟩

/-- A turn after which the job still runs. -/
theorem jobInv_of_running_turn {s t : State} (h : s.Inv) (hb : s.status = .busy) (ht : engineTurn s = .next t)
    (hs : t.status = .busy) (hp : t.phase ≠ .noJob) (hd : Memory.wf t.dst) (hok : t.phaseInv) : t.JobInv where
  dstWf := hd
  busyPhase := by simp [hs, hp]
  outLenOk _ := by
    obtain ⟨-, hconfig, -, -, -, -, hjob, -⟩ := engineTurn_frame ht
    by_cases hj : t.job = s.job
    · rw [hj, width_congr hconfig, height_congr hconfig]
      exact h.outLenOk hb
    · rw [engineTurn_derive hb (hjob hj).2] at ht
      cases ht
      rfl
  phaseOk := hok

/-- THE ENGINE'S TURN keeps the job's part of the invariant. -/
theorem jobInv_engineTurn {s t : State} (h : s.Inv) (ht : engineTurn s = .next t) : t.JobInv := by
  by_cases hb : s.status = .busy
  swap
  · rw [engineTurn_not_busy hb] at ht
    cases ht
    exact h.jobInv
  have hok := h.phaseOk
  have hrun := jobInv_of_running_turn h hb ht
  rcases turn_cases hb ht with ⟨-, rfl⟩ | ⟨-, r, s', rfl, hs', hr⟩ | ⟨hp, hc, rfl⟩ | ⟨hp, rfl⟩ | ⟨hp, ho, rfl⟩
    | ⟨hp, -, -, hfit, hneed, rfl⟩ | ⟨hp, -, rfl⟩ | ⟨hp, hr, hx, i, q, -, -, rfl⟩ | ⟨hp, hpast, rfl⟩
  · exact h.jobInv
  · exact jobInv_endJob h (by rcases hs' with rfl | rfl | rfl <;> rfl) hr
  · simp only [State.phaseInv, hp] at hok
    exact hrun hb (by simp) h.dstWf ⟨hc, hok⟩
  · simp only [State.phaseInv, hp] at hok
    obtain ⟨hc, hd⟩ := hok
    exact hrun hb (by rw [stepDerive_phase]; split <;> simp) h.dstWf (phaseInv_stepDerive hc hd)
  · simp only [State.phaseInv, hp] at hok
    obtain ⟨hc, -, hd, -, -, hle, -⟩ := hok
    exact hrun hb (by simp) h.dstWf (phaseInv_beginResolve hc (Nat.le_antisymm hle ho) hd)
  · exact hrun hb (by simp [hp]) h.dstWf (phaseInv_packet hp hok (packetBytes_length ..) hfit hneed)
  · simp only [State.phaseInv, hp] at hok
    obtain ⟨hc, -, hd⟩ := hok
    exact hrun hb (by simp) h.dstWf
      (phaseInv_beginResolve (configured_congr rfl rfl rfl hc) (by simp [State.out]) hd)
  · exact hrun (by simp [hb]) (by simp [hp]) (by rw [nextPixel_dst]; exact Memory.wf_writeBytes _ _ _ h.dstWf)
      (phaseInv_nextPixel q hp hok hr hx)
  · exact hrun hb (by simp) h.dstWf (phaseInv_complete hp hok hpast)

/-- What holds of a job in its phase does not look at SRC, and a disturbance only takes a promise away (R44). -/
theorem phaseInv_hostStore {s : State} (a : Nat) (b : Byte) (h : s.phaseInv) : (s.hostStore a b).phaseInv := by
  cases hp : s.phase with
  | noJob =>
    simp only [State.phaseInv, hostStore_phase, hp] at h ⊢
    intro hs hd
    rw [hostStore_srcDisturbed, Bool.or_eq_false_iff] at hd
    exact h hs hd.1
  | _ =>
    simp only [State.phaseInv, hostStore_phase, hp] at h ⊢
    exact h

/-- THE HOST'S TURN keeps the job's part of the invariant. -/
theorem jobInv_hostTurn {e : HostEvent} {s t : State} (h : s.Inv) (hne : e ≠ .engineTurn)
    (hnp : ¬ (e = .poll ∧ s.status = .busy)) (ht : hostTurn e s = .next t) : t.JobInv := by
  rcases hostTurn_cases hne hnp ht with ⟨-, rfl⟩ | ⟨off, v, -, -, -, -, rfl⟩ | ⟨v, -, rfl | ⟨-, -, rfl⟩⟩
    | ⟨v, rfl⟩ | rfl | ⟨a, b, -, -, rfl⟩
  · exact .of_idle Memory.wf_nil (fun hs => nomatch hs) rfl (fun hs => nomatch hs)
  · by_cases hb : s.status = .busy
    · rw [writeReg_busy s off v hb]
      exact h.jobInv
    · obtain ⟨hp, hok⟩ := h.idle hb
      exact .of_idle (by simpa using h.dstWf) (by simpa using hb) (by simpa using hp)
        (by simpa [State.dstFilled] using hok)
  · exact h.jobInv
  · exact ⟨Memory.wf_nil, by simp, fun _ => rfl, rfl⟩
  · exact ⟨h.dstWf, h.busyPhase, h.outLenOk, h.phaseOk⟩
  · exact ⟨h.dstWf, h.busyPhase, h.outLenOk, h.phaseOk⟩
  · exact ⟨h.dstWf, h.busyPhase, h.outLenOk, phaseInv_hostStore a b h.phaseOk⟩

/-- Every step keeps the job's part of the invariant. -/
theorem jobInv_step {s t : State} (h : s.Inv) (ht : step s = .next t) : t.JobInv := by
  rcases step_next_cases ht with ⟨-, q, ht⟩ | ⟨e, q, -, hne, hnp, ht⟩
  · exact jobInv_engineTurn (inv_hostQueue h q) ht
  · exact jobInv_hostTurn (inv_hostQueue h q) hne hnp ht

/-- Every step keeps SRC canonical and inside its capacity. -/
theorem src_step {s t : State} (h : s.Inv) (ht : step s = .next t) :
    Memory.wf t.src ∧ ∀ c ∈ t.src, c.1 < s.caps.src := by
  rcases step_src ht with hsrc | ⟨a, b, ha, hsrc⟩ <;> rw [hsrc]
  · exact ⟨h.srcWf, h.srcInside⟩
  · refine ⟨Memory.wf_write _ _ _ h.srcWf, fun c hc => ?_⟩
    rcases Memory.mem_write hc with rfl | hmem
    · exact ha
    · exact h.srcInside c hmem

/-- Settles O51: SRC by what a step can store, the parameters by O38, ERR by O37, and the rest turn by turn. -/
theorem everyStepKeepsTheInvariant : Obligations.EveryStepKeepsTheInvariant := by
  intro s t h ht
  obtain ⟨hwf, hinside⟩ := src_step h ht
  obtain ⟨hcaps, -⟩ := configurationIsFixedDuringAJob s t ht
  obtain ⟨hzero, hrange⟩ := errIsZeroOutsideError s t h.errZero h.errRange ht
  obtain ⟨hdst, hphase, hout, hok⟩ := jobInv_step h ht
  exact ⟨hwf, hdst, hcaps ▸ hinside, hcaps ▸ h.capsLegal, hzero, hrange, hphase, hout, hok⟩

end Sys2Proof.Machine
end

section
/-! The host's accesses to the registers, and the quantities that Derive computes from them. -/

namespace Sys2Proof.Machine

/-! ### CTRL -/

/-- A START looks at bit 0 of its value alone (R13). -/
theorem execStart_congr {v w : Word} (s : State) (h : v[0] = w[0]) : execStart v s = execStart w s := by
  simp only [execStart, h]

/-- Settles O8: `decodeStart` by bit 0, and the step on a CTRL access. -/
theorem stepRunsTheCtrlWrite : Obligations.StepRunsTheCtrlWrite := by
  refine ⟨fun v i => ?_, fun v w s h => execStart_congr s h, fun s q v => ⟨fun hq => ?_, fun hq => ?_⟩⟩
  · rw [decode, decodeStart_eq]
    cases hv : v[0] <;> simp [eq_comm]
  · have hstep : step s = hostRegWrite 0x00 v { s with hostQueue := q } := by
      simp [step, hq, hostTurn, regAccess]
    rw [hstep, hostRegWrite, if_pos rfl]
    refine ⟨fun i hi => ?_, fun hv => ?_⟩
    · rw [decode] at hi
      simp only [hi]
    · simp only [decodeStart_eq, hv, Bool.false_eq_true, if_false]
  · simp [step, hq, hostTurn, regAccess, State.readReg, State.answerHost]

/-! ### STATUS -/

/-- The STATUS word as a number: STATE in bits 1:0 and ERR in bits 11:8 (R12). -/
theorem statusWord_toNat (s : State) : s.statusWord.toNat = s.status.code.toNat + 256 * s.err.toNat := by
  have key : ∀ (e : BitVec 4) (c : BitVec 2), (0#20 ++ e ++ 0#6 ++ c).toNat = c.toNat + 256 * e.toNat := by decide
  exact key s.err s.status.code

/-- Settles O43: outside BUSY a poll is answered at once, with the STATUS word. -/
theorem pollReturnsTheStatusWord : Obligations.PollReturnsTheStatusWord :=
  fun s _ hq hb => ⟨_, step_poll hb hq, rfl, statusWord_toNat s⟩

/-! ### The configuration registers -/

/-- A register write touches the configuration registers alone. -/
theorem writeReg_frame (s : State) (off : Nat) (v : Word) :
    s.writeReg off v = { s with srcLen := (s.writeReg off v).srcLen, dataEnd := (s.writeReg off v).dataEnd,
                                dim := (s.writeReg off v).dim, format := (s.writeReg off v).format,
                                cmap := (s.writeReg off v).cmap, cmap2 := (s.writeReg off v).cmap2,
                                attr := (s.writeReg off v).attr } := by
  unfold State.writeReg
  repeat' split
  all_goals rfl

/-- A register write leaves what every other offset reads. -/
theorem readReg_writeReg_other (s : State) {off o : Nat} (v : Word) (h : o ≠ off) :
    (s.writeReg off v).readReg o = s.readReg o := by
  unfold State.writeReg
  repeat' split
  all_goals
    subst_vars
    simp only [State.readReg, h, if_false, State.statusWord]

/-- The offsets past ATTR read 0 (R12). -/
theorem readReg_unmapped (s : State) {off : Nat} (h : 0x20 < off) : s.readReg off = 0 := by
  simp only [State.readReg, show off ≠ 0x04 by omega, show off ≠ 0x08 by omega, show off ≠ 0x0C by omega,
    show off ≠ 0x10 by omega, show off ≠ 0x14 by omega, show off ≠ 0x18 by omega, show off ≠ 0x1C by omega,
    show off ≠ 0x20 by omega, if_false]

/-- Cutting a word to its low `n` bits is masking it. -/
theorem setWidth_setWidth_eq_and {w : Nat} (v : BitVec w) (n : Nat) :
    (v.setWidth n).setWidth w = v &&& BitVec.ofNat w (2 ^ n - 1) := by
  ext k hk
  simp [← BitVec.getLsbD_eq_getElem, BitVec.getLsbD_ofNat, Nat.testBit_two_pow_sub_one, hk, Bool.and_comm]

/-- What an offset reads after it was written (R12): a register its value without the reserved bits. -/
theorem readReg_writeReg_same {s : State} {off : Nat} (v : Word) (hb : s.status ≠ .busy) (hal : off % 4 = 0)
    (h4 : 4 ≤ off) :
    (s.writeReg off v).readReg off = (if off = 0x04 then s.statusWord else if off < 0x1C then v
      else if off = 0x1C then v &&& 0xFFFF else if off = 0x20 then v &&& 0x1FF else 0) := by
  obtain rfl | hpast | rfl | rfl | rfl | rfl | rfl | rfl | rfl : off = 0x04 ∨ 0x20 < off ∨ off = 0x1C ∨ off = 0x20
      ∨ off = 0x08 ∨ off = 0x0C ∨ off = 0x10 ∨ off = 0x14 ∨ off = 0x18 := by omega
  · rw [writeReg_ignored v (.inr (.inl (by decide)))]
    rfl
  · rw [writeReg_ignored v (.inr (.inr hpast)), readReg_unmapped s hpast]
    simp only [show off ≠ 0x04 by omega, show ¬ off < 0x1C by omega, show off ≠ 0x1C by omega,
      show off ≠ 0x20 by omega, if_false]
  · simpa [State.writeReg, State.readReg, hb] using setWidth_setWidth_eq_and v 16
  · simpa [State.writeReg, State.readReg, hb] using setWidth_setWidth_eq_and v 9
  all_goals simp [State.writeReg, State.readReg, hb]

theorem statusWord_resetWith (c : Capacities) : (State.resetWith c).statusWord = 0 := by
  show 0#20 ++ 0#4 ++ 0#6 ++ 0#2 = 0#32
  decide

/-- After reset every offset reads 0 (R98). -/
theorem readReg_resetWith (c : Capacities) (off : Nat) : (State.resetWith c).readReg off = 0 := by
  unfold State.readReg
  rw [statusWord_resetWith]
  repeat' split
  all_goals rfl

/-- Settles O40: the step is the register write, whose read back, other offsets and frame are the lemmas above. -/
theorem registersReadBack : Obligations.RegistersReadBack := by
  refine ⟨fun s off v q hb hal h4 hlt hq => ?_, readReg_resetWith⟩
  exact ⟨_, step_regWrite hq hal (by omega) hlt,
    readReg_writeReg_same (s := { s with hostQueue := q }) v hb hal h4,
    fun o ho => readReg_writeReg_other { s with hostQueue := q } v ho,
    writeReg_frame { s with hostQueue := q } off v⟩

/-! ### Derive -/

/-- IS_GRAY as one test (R19). -/
theorem isGray_eq (s : State) : s.isGray = decide (s.imageType = 3 ∨ s.imageType = 11) := by
  simp [State.isGray]

/-- Settles O33: the state after Derive is `stepDerive`, field by field. -/
theorem deriveComputesTheJob : Obligations.DeriveComputesTheJob := by
  intro s hb hp
  refine ⟨stepDerive s, engineTurn_derive hb hp, rfl, rfl, hb, ?_, rfl, rfl, rfl, ?_, rfl, ?_, fun hc => ?_,
    alphaHonored_iff s⟩
  · simp [State.isRle]
  · simp [State.deriveJob, State.dataStartOf, State.indexed, bytesOfBits]
  · rw [← isGray_eq]
    exact fselWord_toNat _ _ _
  · have hi : s.indexed = true := decide_eq_true hc
    rw [← isGray_eq, stepDerive_job]
    simp only [State.deriveJob, hi, if_true, fselWord_toNat, Bool.toNat_false]
    exact ⟨rfl, by simp [bytesOfBits]⟩

end Sys2Proof.Machine
end

section
/-! The host's port, access by access: what each one answers inside its space and past its end (R29, R33), and what a
host's write of SRC does to it and to the running job (R30, R44). -/

namespace Sys2Proof.Machine

/-! ### REG -/

/-- An access that is not an aligned 32-bit word is refused (R33). -/
theorem regAccess_refused {off : Nat} {size : AccessSize} (k : Answer) (h : size ≠ .word ∨ off % 4 ≠ 0) :
    regAccess off size k = .refused (.regAccessForm off) := if_pos h

/-- An aligned 32-bit access past 0x3C finds no register (R12). -/
theorem regAccess_past {off : Nat} (k : Answer) (hal : off % 4 = 0) (hoff : 0x40 ≤ off) :
    regAccess off .word k = .fault (.regNoSuchAddress off) := by
  simp only [regAccess, hal, ne_eq, not_true_eq_false, or_self, if_false, if_pos hoff]

/-- An aligned 32-bit access inside REG goes through (R12, R33). -/
theorem regAccess_inside {off : Nat} (k : Answer) (hal : off % 4 = 0) (hoff : off < 0x40) :
    regAccess off .word k = k := by
  simp only [regAccess, hal, ne_eq, not_true_eq_false, or_self, if_false, if_neg (Nat.not_le.2 hoff)]

theorem step_regRead_eq {s : State} {off : Nat} {size : AccessSize} {q : List HostEvent}
    (hq : s.hostQueue = .regRead off size :: q) :
    step s = regAccess off size (.next { s with hostQueue := q, hostData := s.readReg off }) := by
  simp only [step, hq]
  rfl

theorem step_regWrite_eq {s : State} {off : Nat} {size : AccessSize} {v : Word} {q : List HostEvent}
    (hq : s.hostQueue = .regWrite off size v :: q) :
    step s = regAccess off size (hostRegWrite off v { s with hostQueue := q }) := by
  simp only [step, hq]
  rfl

/-- Settles O41, by the form check of a REG access and the offsets past ATTR. -/
theorem regAccessForms : Obligations.RegAccessForms := by
  intro s off size v q
  refine ⟨fun hform => ⟨fun hq => ?_, fun hq => ?_⟩,
    fun hal hlt => ⟨fun hq => ?_, fun hoff => ⟨?_, fun hq => ?_⟩⟩⟩
  · rw [step_regRead_eq hq, regAccess_refused _ hform]
  · rw [step_regWrite_eq hq, regAccess_refused _ hform]
  · rw [step_regRead_eq hq, regAccess_inside _ hal hlt]
  · exact readReg_unmapped s (by omega)
  · rw [step_regWrite hq hal (by omega) hlt, writeReg_ignored v (.inr (.inr (by omega)))]

/-! ### DST -/

theorem step_dstRead_eq {s : State} {a : Nat} {q : List HostEvent} (hq : s.hostQueue = .dstRead a :: q) :
    step s = hostDstRead a { s with hostQueue := q } := by
  simp only [step, hq]
  rfl

/-- A read past DST's size stops (R29). -/
theorem hostDstRead_past {s : State} {a : Nat} (h : s.dstSize ≤ a) :
    hostDstRead a s = .fault (.dstNoSuchAddress a) := if_pos h

/-- A read inside DST's size returns the byte that the spec fixes (R32). -/
theorem hostDstRead_defined {s : State} {a : Nat} {b : Byte} (h : a < s.dstSize) (hb : s.dstByte a = some b) :
    hostDstRead a s = .next (s.answerHost (b.setWidth 32)) := by
  simp only [hostDstRead, if_neg (Nat.not_le.2 h), hb]

/-- Where the spec fixes no byte, it returns a free one (R32, R44). -/
theorem hostDstRead_free {s : State} {a : Nat} (h : a < s.dstSize) (hb : s.dstByte a = none) :
    hostDstRead a s = .next s.answerFree := by
  simp only [hostDstRead, if_neg (Nat.not_le.2 h), hb]

/-- Outside DONE, and after a disturbed job, no DST byte is fixed (R32, R44). -/
theorem dstByte_eq_none {s : State} (a : Nat) (h : s.status ≠ .done ∨ s.srcDisturbed = true) :
    s.dstByte a = none := if_neg fun ⟨hdone, hund⟩ => h.elim (fun hne => hne hdone) (by simp [hund])

/-- Where no DST byte is fixed, a read does not look at DST. -/
theorem hostDstRead_dst_update {s : State} (a : Nat) (m : Memory) (h : s.status ≠ .done ∨ s.srcDisturbed = true) :
    hostDstRead a { s with dst := m } = mapNext (fun t => { t with dst := m }) (hostDstRead a s) := by
  by_cases hsize : s.dstSize ≤ a
  · rw [hostDstRead_past hsize, hostDstRead_past (s := { s with dst := m }) hsize]
    rfl
  · rw [hostDstRead_free (Nat.not_le.1 hsize) (dstByte_eq_none a h),
      hostDstRead_free (s := { s with dst := m }) (Nat.not_le.1 hsize) (dstByte_eq_none a h)]
    rfl

/-- What DST's size bounds (R29). -/
theorem lt_dstSize {s : State} {a : Nat} :
    a < s.dstSize ↔ a < s.caps.dst ∧ (s.status = .done → a < s.job.outLen) := by
  unfold State.dstSize
  split
  next hdone => simp [hdone, and_comm]
  next hdone => simp [hdone]

/-- Settles O45, by the three answers of a DST read, and by the invariant for the bytes of an undisturbed DONE. -/
theorem dstIsReadOnlyAtDone : Obligations.DstIsReadOnlyAtDone := by
  intro s a q hq
  refine ⟨fun b hdone hund hlen hcap hb => ?_, fun hinv hdone hund hlen => ?_, fun hopen m => ?_,
    fun hopen hcap hlen => ?_⟩
  · rw [step_dstRead_eq hq]
    refine hostDstRead_defined (lt_dstSize.2 ⟨hcap, fun _ => hlen⟩) ?_
    exact (if_pos ⟨hdone, hund⟩).trans hb
  · obtain ⟨-, hok⟩ := hinv.idle (by simp [hdone])
    obtain ⟨hfill, hfit⟩ := hok hdone hund
    exact ⟨Nat.lt_of_lt_of_le hlen hfit, Option.isSome_iff_exists.1 ((hfill a).2 hlen)⟩
  · rw [step_dstRead_eq hq, step_dstRead_eq (s := { s with dst := m }) hq]
    exact hostDstRead_dst_update (s := { s with hostQueue := q }) a m hopen
  · rw [step_dstRead_eq hq]
    exact hostDstRead_free (s := { s with hostQueue := q }) (lt_dstSize.2 ⟨hcap, hlen⟩) (dstByte_eq_none a hopen)

/-! ### SRC -/

theorem step_srcWrite_eq {s : State} {a : Nat} {b : Byte} {q : List HostEvent}
    (hq : s.hostQueue = .srcWrite a b :: q) : step s = hostSrcWrite a b { s with hostQueue := q } := by
  simp only [step, hq]
  rfl

theorem step_srcRead_eq {s : State} {a : Nat} {q : List HostEvent} (hq : s.hostQueue = .srcRead a :: q) :
    step s = hostSrcRead a { s with hostQueue := q } := by
  simp only [step, hq]
  rfl

/-- A disturbed job ends in DONE or in ERROR with a code of R85, and with no DST byte fixed (R44). -/
theorem endJob_disturbed_open {s : State} (r : Option JobError) (hd : s.srcDisturbed = true) :
    ((s.endJob r).status = .done ∧ (s.endJob r).err = 0
      ∨ (s.endJob r).status = .error ∧ 1 ≤ (s.endJob r).err.toNat ∧ (s.endJob r).err.toNat ≤ 7)
    ∧ ∀ a, (s.endJob r).dstByte a = none := by
  refine ⟨?_, fun a => dstByte_eq_none a (.inr ((endJob_srcDisturbed s r).trans hd))⟩
  rcases endJob_status_err s r with hdone | ⟨herror, e, he⟩
  · exact .inl hdone
  · exact .inr ⟨herror, he ▸ errorCode_range e⟩

/-- Settles O46: the write is `hostStore`, and a disturbed job's end does not look at the result of the reference. -/
theorem srcWriteWhileBusyLeavesTheEndOpen : Obligations.SrcWriteWhileBusyLeavesTheEndOpen := by
  refine ⟨fun s a b q hq ha => ?_, fun s r hd => ⟨endJob_disturbed s r _ hd, endJob_disturbed_open r hd⟩⟩
  refine ⟨State.hostStore { s with hostQueue := q } a b, ?_, srcByte_hostStore_same _ a b,
    fun k hk => srcByte_hostStore_other _ a k b hk, rfl, ?_⟩
  · rw [step_srcWrite_eq hq]
    exact if_neg (Nat.not_le.2 ha)
  · simp

/-- The host changes SRC by a write alone, and then as `hostStore` does. -/
theorem hostTurn_src {e : HostEvent} {s t : State} (hne : e ≠ .engineTurn)
    (hnp : ¬ (e = .poll ∧ s.status = .busy)) (h : hostTurn e s = .next t) :
    t.src = s.src ∨ ∃ a b, e = .srcWrite a b ∧ t = s.hostStore a b := by
  rcases hostTurn_cases hne hnp h with ⟨-, rfl⟩ | ⟨off, v, -, -, -, -, rfl⟩ | ⟨v, -, rfl | ⟨-, -, rfl⟩⟩
    | ⟨v, rfl⟩ | rfl | ⟨a, b, he, -, rfl⟩
  · exact .inl rfl
  · exact .inl (writeReg_src ..)
  · exact .inl rfl
  · exact .inl rfl
  · exact .inl rfl
  · exact .inl rfl
  · exact .inr ⟨a, b, he, rfl⟩

/-- Settles O39: the engine's turn keeps SRC, and a host write changes the byte at its own offset only. -/
theorem onlyTheHostWritesSrc : Obligations.OnlyTheHostWritesSrc := by
  intro s t h a hchange
  rcases step_next_cases h with ⟨-, q, ht⟩ | ⟨e, q, hq, hne, hnp, ht⟩
  · obtain ⟨-, -, hsrc, -⟩ := engineTurn_frame ht
    exact absurd (srcByte_congr hsrc a) hchange
  · rcases hostTurn_src hne hnp ht with hsrc | ⟨k, b, rfl, rfl⟩
    · exact absurd (srcByte_congr hsrc a) hchange
    · by_cases hk : a = k
      · subst hk
        exact ⟨b, q, hq, srcByte_hostStore_same _ a b⟩
      · exact absurd (srcByte_hostStore_other _ k a b hk) hchange

/-! ### Past the end of a space -/

/-- Settles O48, space by space. -/
theorem accessesOutsideTheSpacesFault : Obligations.AccessesOutsideTheSpacesFault := by
  intro s a v b q
  refine ⟨fun hal hoff => ⟨fun hq => ?_, fun hq => ?_⟩, fun hsrc => ⟨fun hq => ?_, fun hq => ?_⟩,
    fun hq => ⟨fun hdone hlen => ?_, fun hcap => ?_⟩⟩
  · rw [step_regRead_eq hq, regAccess_past _ hal hoff]
  · rw [step_regWrite_eq hq, regAccess_past _ hal hoff]
  · rw [step_srcRead_eq hq]
    exact if_pos hsrc
  · rw [step_srcWrite_eq hq]
    exact if_pos hsrc
  · rw [step_dstRead_eq hq]
    refine hostDstRead_past (Nat.not_lt.1 fun hlt => ?_)
    exact Nat.not_lt.2 hlen ((lt_dstSize.1 hlt).2 hdone)
  · rw [step_dstRead_eq hq]
    exact hostDstRead_past (Nat.le_trans (dstSize_le_capacity _) hcap)

end Sys2Proof.Machine
end

section
/-! The output in DST: the pixels tile it (R31, R75), and an undisturbed DONE holds all of it (R32, R82). -/

namespace Sys2Proof.Machine

/-! ### Places of pixels -/

/-- Two pixels of in-range columns at one place are the same pixel. -/
theorem pixelAddr_injective {s : State} {r c r' c' : Nat} (hc : c < s.width) (hc' : c' < s.width)
    (h : s.pixelAddr r c = s.pixelAddr r' c') : r = r' ∧ c = c' := by
  have hplace : c + s.width * r = c' + s.width * r' := by
    simp only [State.pixelAddr, Nat.mul_comm _ s.width] at h
    omega
  have hdiv := congrArg (· / s.width) hplace
  have hmod := congrArg (· % s.width) hplace
  have hpos : 0 < s.width := by omega
  simp only [Nat.add_mul_div_left _ _ hpos, Nat.div_eq_of_lt hc, Nat.div_eq_of_lt hc', Nat.zero_add] at hdiv
  simp only [Nat.add_mul_mod_self_left, Nat.mod_eq_of_lt hc, Nat.mod_eq_of_lt hc'] at hmod
  exact ⟨hdiv, hmod⟩

/-- The pixel that an output byte belongs to, from its offset's quotient and remainder. -/
theorem pixelAddr_div_mod (s : State) (a : Nat) :
    s.pixelAddr (a / 4 / s.width) (a / 4 % s.width) ≤ a
      ∧ a < s.pixelAddr (a / 4 / s.width) (a / 4 % s.width) + 4 := by
  rw [State.pixelAddr, Nat.div_add_mod']
  omega

/-- An output byte's pixel lies in the image. -/
theorem pixel_of_offset {s : State} {a : Nat} (h : a < s.width * s.height * 4) :
    a / 4 / s.width < s.height ∧ a / 4 % s.width < s.width := by
  have hplace : a / 4 < s.width * s.height := by omega
  exact ⟨Nat.div_lt_of_lt_mul hplace, Nat.mod_lt _ (Nat.pos_of_mul_pos_right (Nat.zero_lt_of_lt hplace))⟩

/-- The source row of a row of the image is one (R74). -/
theorem srcRow_lt {s : State} {r : Nat} (hr : r < s.height) : s.srcRow r < s.height := by
  unfold State.srcRow
  split <;> omega

/-- A pixel's unit lies inside RAW once Derive has computed P and N, whether or not CheckConfig would pass. -/
theorem derived_unit_inside {s : State} (hj : s.job = s.deriveJob) {r c : Nat} (hr : r < s.height) (hx : c < s.width) :
    s.unitOffset r c + s.job.unitSize ≤ s.job.expected := by
  have hN : s.job.expected = s.width * s.height * s.job.unitSize := by rw [hj]; rfl
  have hplace : s.srcRow r * s.width + c + 1 ≤ s.width * s.height := by
    have hpixel := pixel_inside (srcRow_lt hr) hx
    simp only [State.pixelAddr] at hpixel
    omega
  calc s.unitOffset r c + s.job.unitSize
      = (s.srcRow r * s.width + c + 1) * s.job.unitSize := (Nat.succ_mul _ _).symm
    _ ≤ s.width * s.height * s.job.unitSize := Nat.mul_le_mul_right _ hplace
    _ = s.job.expected := hN.symm

/-- Settles O31: a pixel's place is a base-W number, and its unit is placed likewise by its source row. -/
theorem pixelsTileTheOutput : Obligations.PixelsTileTheOutput := by
  intro s hj
  have hout : s.job.outLen = s.width * s.height * 4 := by rw [hj]; rfl
  rw [hout]
  refine ⟨fun r c r' c' hc hc' h => pixelAddr_injective hc hc' h, fun a ha => ?_, fun r c hr hx =>
    ⟨pixel_inside hr hx, derived_unit_inside hj hr hx⟩⟩
  obtain ⟨hr, hx⟩ := pixel_of_offset ha
  exact ⟨_, _, hr, hx, pixelAddr_div_mod s a⟩

/-! ### At DONE -/

/-- When a step ends a BUSY job, the registers and the per-job quantities stay. -/
theorem step_to_done {s t : State} (h : step s = .next t) (hb : s.status = .busy) (hdone : t.status = .done) :
    t.config = s.config ∧ t.job = s.job := by
  rcases step_next_cases h with ⟨-, q, ht⟩ | ⟨e, q, -, hne, hnp, ht⟩
  · obtain ⟨-, hconfig, -, -, -, -, hjob, -⟩ := engineTurn_frame ht
    refine ⟨hconfig, ?_⟩
    by_contra hchange
    rw [engineTurn_derive (s := { s with hostQueue := q }) hb (hjob hchange).2] at ht
    cases ht
    exact absurd (hb.symm.trans hdone) (by decide)
  · rcases hostTurn_status hne hnp ht with ⟨hs, -⟩ | ⟨-, hs, -⟩ | ⟨-, -, hs, -⟩
    · exact absurd (hb.symm.trans (hs.symm.trans hdone)) (by decide)
    all_goals exact absurd (hs.symm.trans hdone) (by decide)

/-- Settles O56: the output size is the invariant's of the BUSY job, and the filled DST the invariant's of DONE. -/
theorem atDoneEveryOutputByteIsDefined : Obligations.AtDoneEveryOutputByteIsDefined := by
  intro s t hinv h hb hdone
  obtain ⟨hconfig, hjob⟩ := step_to_done h hb hdone
  have hout : t.job.outLen = t.width * t.height * 4 := by
    rw [hjob, width_congr hconfig, height_congr hconfig]
    exact hinv.outLenOk hb
  refine ⟨hout, fun hund => ?_⟩
  obtain ⟨-, hok⟩ := (everyStepKeepsTheInvariant s t hinv h).idle (by simp [hdone])
  obtain ⟨hfill, hfit⟩ := hok hdone hund
  rw [hout] at hfill hfit
  refine ⟨hfit, fun a => ?_⟩
  rw [State.dstByte, if_pos ⟨hdone, hund⟩]
  exact hfill a

end Sys2Proof.Machine
end

section
/-! What the engine makes of SRC: a turn reads the bytes of the file from offset 18 to SRC_LEN - 1 and no others
(R30, R38), operation by operation and then phase by phase. -/

namespace Sys2Proof.Machine

/-! ### The operations over a state whose SRC is replaced -/

/-- A packet's effect looks at the bytes it is given only where they lie inside the region (R59). -/
theorem packetEffect_src_update {count need : Nat} {bs bs' : List Byte} {s : State} (m : Memory)
    (h : s.rd + need ≤ s.dataEnd.toNat → bs' = bs) :
    packetEffect count need bs' { s with src := m } = { packetEffect count need bs s with src := m } := by
  rcases packetEffect_cases count need bs s with ⟨hover | hshort, he⟩ | ⟨hfit, hneed, he⟩ <;> rw [he]
  · rw [packetEffect_overshoots (s := { s with src := m }) hover]
    exact endJob_src_update s m _
  · rw [packetEffect_short (s := { s with src := m }) hshort]
    exact endJob_src_update s m _
  · rw [packetEffect_fits (s := { s with src := m }) hfit hneed, h hneed]
    rfl

/-- The walk moves on by the cursor and the width alone. -/
theorem nextPixel_src_update (s : State) (m : Memory) :
    ({ s with src := m } : State).nextPixel = { s.nextPixel with src := m } := by
  have hwidth : ({ s with src := m } : State).width = s.width := rfl
  by_cases h : s.x + 1 < s.width <;> simp only [State.nextPixel, hwidth, h, if_true, if_false]

/-- What a resolver operation emits goes to DST and the latches, wherever it was read from. -/
theorem emit_src_update (s : State) (m : Memory) (r : Resolved) :
    ({ s with src := m } : State).emit r = mapNext (fun t => { t with src := m }) (s.emit r) := by
  cases r with
  | quad q => exact congrArg _ (nextPixel_src_update (s.writePixel q) m)
  | raises e => exact congrArg _ (endJob_src_update s m _)
  | badUnit n => rfl

/-- A resolver operation resolves by the unit, the job and the palette alone (R76). -/
theorem resolvedBy_congr {s t : State} (i : Instr) (hu : t.unit = s.unit) (hj : t.job = s.job)
    (hpal : ∀ k, paletteEntry t k = paletteEntry s k) : resolvedBy i t = resolvedBy i s := by
  cases i with
  | index8 g =>
    simp only [resolvedBy, hu]
    unfold resolveIndex8
    split
    · exact hpal _
    · rfl
  | index16 g =>
    simp only [resolvedBy, hu]
    unfold resolveIndex16
    split
    · exact hpal _
    · rfl
  | _ => simp only [resolvedBy, hu, hj]

/-! ### A turn of ResolveImage, case by case (R75) -/

theorem turnResolve_pixel {s : State} {i : Instr} (hin : s.destRow < s.height ∧ s.x < s.width)
    (hi : decodeFsel s.job.fselImg = .ok i) : turnResolve s = s.latchUnit.emit (resolvedBy i s.latchUnit) := by
  simp only [turnResolve, if_pos hin, hi, exec_format hi]

theorem turnResolve_reserved {s : State} {e : DecodeError} (hin : s.destRow < s.height ∧ s.x < s.width)
    (hi : decodeFsel s.job.fselImg = .error e) : turnResolve s = .next (s.raise .unsupportedPixelDepth) := by
  simp only [turnResolve, if_pos hin, hi]

theorem turnResolve_past {s : State} (hpast : ¬ (s.destRow < s.height ∧ s.x < s.width)) :
    turnResolve s = .next { s with phase := .complete } := if_neg hpast

/-! ### A turn of the engine -/

/-- The contents `m` agree with SRC on the bytes of the file, header excepted. -/
def State.sameFile (s : State) (m : Memory) : Prop :=
  ∀ a, 18 ≤ a → a < s.srcLen.toNat → ({ s with src := m } : State).srcByte a = s.srcByte a

/-- In a configured job the raw data lies inside the file and past the header (R38, R79). -/
theorem configured_region {s : State} (hc : s.configured) :
    18 ≤ s.job.dataStart ∧ s.dataEnd.toNat ≤ s.srcLen.toNat := by
  obtain ⟨-, -, -, -, -, -, hend⟩ := checkConfig_none hc.1
  have hstart : s.job.dataStart = s.dataStartOf := by rw [hc.2]; rfl
  exact ⟨by rw [hstart, State.dataStartOf]; omega, hend⟩

/-- CHECKCONFIG reads no SRC byte. -/
theorem stepCheckConfig_src_update (s : State) (m : Memory) :
    stepCheckConfig { s with src := m } = { stepCheckConfig s with src := m } := by
  simp only [stepCheckConfig, (checkConfig_congr (t := { s with src := m }) (s := s) rfl rfl).1]
  split
  · exact endJob_src_update s m _
  · rfl

/-- RLE: the control byte and its unit bytes are read between DATA_START and DATA_END only (R55 to R59). -/
theorem turnRle_src_update {s : State} {m : Memory} (hm : s.sameFile m) (hrd : 18 ≤ s.rd)
    (hend : s.dataEnd.toNat ≤ s.srcLen.toNat) :
    turnRle { s with src := m } = mapNext (fun t => { t with src := m }) (turnRle s) := by
  unfold turnRle
  simp only [show ({ s with src := m } : State).out = s.out from rfl]
  split
  · rfl
  · split
    · exact congrArg _ (endJob_src_update s m _)
    next hlt =>
      rw [hm s.rd hrd (by omega), exec_decodeControl, exec_decodeControl]
      refine congrArg _ (packetEffect_src_update (s := s.takeControl) m fun hneed => ?_)
      refine packetBytes_congr (s := s.takeControl) fun k hlo hhi => hm k ?_ ?_
      · exact hrd.trans (le_trans (Nat.le_succ _) hlo)
      · exact lt_of_lt_of_le hhi (hneed.trans hend)

/-- LOADRAW reads the first N bytes of the region, when it has them (R81). -/
theorem stepLoadRaw_src_update {s : State} {m : Memory} (hm : s.sameFile m) (hstart : 18 ≤ s.job.dataStart)
    (hend : s.dataEnd.toNat ≤ s.srcLen.toNat) :
    stepLoadRaw { s with src := m } = { stepLoadRaw s with src := m } := by
  unfold stepLoadRaw
  split
  · exact endJob_src_update s m _
  next hfit =>
    have hraw : ({ s with src := m } : State).srcBytes s.job.dataStart s.job.expected
        = s.srcBytes s.job.dataStart s.job.expected :=
      srcBytes_congr fun j hj => hm _ (by omega) (by simp only at hfit; omega)
    simp only [hraw]
    rfl

/-- RESOLVE reads palette entries, past PALETTE_BASE and below SRC_LEN (R39, R72, R73). -/
theorem turnResolve_src_update {s : State} {m : Memory} (hm : s.sameFile m) (hpal : 18 ≤ s.job.paletteBase) :
    turnResolve { s with src := m } = mapNext (fun t => { t with src := m }) (turnResolve s) := by
  have hresolved : ∀ i, resolvedBy i { s.latchUnit with src := m } = resolvedBy i s.latchUnit := fun i =>
    resolvedBy_congr i rfl rfl fun k => paletteEntry_congr k rfl rfl fun hin j hj => by
      refine hm _ (le_trans hpal ?_) (lt_of_lt_of_le (Nat.add_lt_add_left hj _) hin)
      simp only [State.entryOffset, latchUnit_job]
      omega
  by_cases hin : s.destRow < s.height ∧ s.x < s.width
  · cases hi : decodeFsel s.job.fselImg with
    | ok i =>
      rw [turnResolve_pixel hin hi, turnResolve_pixel (s := { s with src := m }) hin hi]
      exact (congrArg _ (hresolved i)).trans (emit_src_update s.latchUnit m _)
    | error e =>
      rw [turnResolve_reserved hin hi, turnResolve_reserved (s := { s with src := m }) hin hi]
      exact congrArg _ (endJob_src_update s m _)
  · rw [turnResolve_past hin, turnResolve_past (s := { s with src := m }) hin]
    rfl

/-- THE ENGINE'S TURN depends on the file's bytes past the header alone. -/
theorem engineTurn_src_update {s : State} {m : Memory} (h : s.Inv) (hm : s.sameFile m) :
    engineTurn { s with src := m } = mapNext (fun t => { t with src := m }) (engineTurn s) := by
  by_cases hb : s.status = .busy
  swap
  · rw [engineTurn_not_busy hb, engineTurn_not_busy (s := { s with src := m }) hb]
    rfl
  have hok := h.phaseOk
  unfold State.phaseInv at hok
  split at hok
  next hp => exact absurd hp (h.busyPhase.1 hb)
  next hp =>
    rw [engineTurn_checkConfig hb hp, engineTurn_checkConfig (s := { s with src := m }) hb hp,
      stepCheckConfig_src_update]
    rfl
  next hp =>
    rw [engineTurn_derive hb hp, engineTurn_derive (s := { s with src := m }) hb hp]
    rfl
  next hp =>
    obtain ⟨hc, -, -, hrd, -⟩ := hok
    obtain ⟨hstart, hend⟩ := configured_region hc
    rw [engineTurn_rle hb hp, engineTurn_rle (s := { s with src := m }) hb hp]
    exact turnRle_src_update hm (hstart.trans hrd) hend
  next hp =>
    obtain ⟨hc, -⟩ := hok
    obtain ⟨hstart, hend⟩ := configured_region hc
    rw [engineTurn_loadRaw hb hp, engineTurn_loadRaw (s := { s with src := m }) hb hp,
      stepLoadRaw_src_update hm hstart hend]
    rfl
  next hp =>
    obtain ⟨⟨-, hjob⟩, -⟩ := hok
    have hbase : s.job.paletteBase = 18 + s.idLength + s.cmOrigin := by rw [hjob]; rfl
    rw [engineTurn_resolve hb hp, engineTurn_resolve (s := { s with src := m }) hb hp]
    exact turnResolve_src_update hm (by omega)
  next hp =>
    rw [engineTurn_complete hb hp, engineTurn_complete (s := { s with src := m }) hb hp]
    exact congrArg _ (endJob_src_update s m _)

/-- The host's event is taken from its queue whatever SRC holds. -/
theorem engineView_src_update (s : State) (m : Memory) :
    ({ s with src := m } : State).engineView = { s.engineView with src := m } := by
  cases hq : s.hostQueue with
  | nil => simp only [State.engineView, hq]
  | cons e q => cases e <;> simp only [State.engineView, hq]

/-- Settles O54: in the engine's turn the step is `engineTurn`, over a state with the host's event taken. -/
theorem bytesOutsideTheFileNeverMatter : Obligations.BytesOutsideTheFileNeverMatter := by
  intro s m h hturn hm
  rw [step_engine hturn, step_engine (s := { s with src := m }) hturn, engineView_src_update, engineView_eq]
  exact engineTurn_src_update (inv_hostQueue h _) hm

end Sys2Proof.Machine
end

section
/-! The encodings of R47 to R54: what selectors, control bytes and packets decode to and are written as, and the turn of
the packet loop over an assembled packet. -/

namespace Sys2Proof.Machine

/-! ### Selectors -/

theorem decodeFsel_gray8 (g : Bool) : decodeFsel (fselWord false g 1) = .ok (.gray8 g) := by cases g <;> rfl
theorem decodeFsel_gray16a : decodeFsel (fselWord false true 2) = .ok .gray16a := rfl
theorem decodeFsel_hc15 : decodeFsel (fselWord false false 2) = .ok .hc15 := rfl
theorem decodeFsel_tc24 (g : Bool) : decodeFsel (fselWord false g 3) = .ok (.tc24 g) := by cases g <;> rfl
theorem decodeFsel_tc32 (g : Bool) : decodeFsel (fselWord false g 4) = .ok (.tc32 g) := by cases g <;> rfl
theorem decodeFsel_index8 (g : Bool) : decodeFsel (fselWord true g 1) = .ok (.index8 g) := by cases g <;> rfl
theorem decodeFsel_index16 (g : Bool) : decodeFsel (fselWord true g 2) = .ok (.index16 g) := by cases g <;> rfl

/-- The mask 0xF7 drops the GRAY bit and keeps every other one (R51). -/
theorem toNat_eq_mask_add_gray (f : Byte) : f.toNat = (f &&& 0xF7).toNat + 8 * (fselGray f).toNat := by
  revert f; decide

/-- A byte that fits a row with a GRAY operand is that row's word, with the byte's own GRAY bit (R51). -/
theorem fselWord_of_mask {f : Byte} (idx : Bool) (n : Nat) (h : f &&& 0xF7 = fselWord idx false n) :
    fselWord idx (fselGray f) n = f := by
  apply BitVec.eq_of_toNat_eq
  rw [toNat_eq_mask_add_gray f, h, fselWord_toNat, fselWord_toNat, Bool.toNat_false]
  omega

/-- A byte that fits a row without a GRAY operand is that row's word (R51). -/
theorem eq_of_full_mask {f w : Byte} (h : f &&& 0xFF = w) : w = f := by
  rw [← h]
  exact BitVec.and_allOnes

/-- The operation of a selector is written as that selector, row by row of R51. -/
theorem encode_of_decodeFsel {f : Byte} {i : Instr} (h : decodeFsel f = .ok i) : encode i = .fsel f := by
  unfold decodeFsel at h
  split at h
  next hrow => cases h; exact congrArg Encoded.fsel (fselWord_of_mask false 1 hrow)
  split at h
  next hrow => cases h; exact congrArg Encoded.fsel (eq_of_full_mask hrow)
  split at h
  next hrow => cases h; exact congrArg Encoded.fsel (eq_of_full_mask hrow)
  split at h
  next hrow => cases h; exact congrArg Encoded.fsel (fselWord_of_mask false 3 hrow)
  split at h
  next hrow => cases h; exact congrArg Encoded.fsel (fselWord_of_mask false 4 hrow)
  split at h
  next hrow => cases h; exact congrArg Encoded.fsel (fselWord_of_mask true 1 hrow)
  split at h
  next hrow => cases h; exact congrArg Encoded.fsel (fselWord_of_mask true 2 hrow)
  next => cases h

/-- The operands of a selector take every value (R51). -/
theorem wellFormed_of_decodeFsel {f : Byte} {i : Instr} (h : decodeFsel f = .ok i) : i.wellFormed = true := by
  rcases decodeFsel_format h with ⟨g, rfl⟩ | rfl | rfl | ⟨g, rfl⟩ | ⟨g, rfl⟩ | ⟨g, rfl⟩ | ⟨g, rfl⟩ <;> rfl

/-- The reserved values, in the fields of R51: each byte is one of the 256 that R52 sorts. -/
theorem decodeFsel_reserved_iff (f : Byte) : decodeFsel f = .error (.reservedFsel f) ↔
    (32 ≤ f.toNat ∨ f.toNat % 8 = 0 ∨ 5 ≤ f.toNat % 8
      ∨ (16 ≤ f.toNat % 32 ∧ (f.toNat % 8 = 3 ∨ f.toNat % 8 = 4))) := by
  revert f; decide

/-- A selector of SIZE 1 to 4, and of SIZE 1 or 2 when it is indexed, is not reserved (R52). -/
theorem fselWord_not_reserved {idx : Bool} {n : Nat} (gray : Bool) (h1 : 1 ≤ n) (h4 : n ≤ 4)
    (hidx : idx = true → n ≤ 2) :
    decodeFsel (fselWord idx gray n) ≠ .error (.reservedFsel (fselWord idx gray n)) := by
  rw [Ne, decodeFsel_reserved_iff, fselWord_toNat]
  have hgray := gray.toNat_le
  cases idx with
  | false => rw [Bool.toNat_false]; omega
  | true => have := hidx rfl; rw [Bool.toNat_true]; omega

/-! ### Selectors of a configured job -/

theorem configured_fselImg {s : State} (hc : s.configured) :
    s.job.fselImg = fselWord s.indexed s.isGray s.job.unitSize := by rw [hc.2]; rfl

/-- An indexed job has 8-bit or 16-bit indices (R79). -/
theorem unitSize_of_indexed {s : State} (hc : s.configured) (hi : s.indexed = true) :
    s.job.unitSize = 1 ∨ s.job.unitSize = 2 := by
  have hP : s.job.unitSize = (s.pixelDepth + 7) / 8 := by rw [hc.2]; rfl
  have hdepth := ((checkConfig_depths hc.1).1 hi).1
  omega

/-- Settles O28: the selector is the word of INDEXED, IS_GRAY and P, and each such word is a row of R51. -/
theorem selectorNamesTheOperation : Obligations.SelectorNamesTheOperation := by
  intro s hc
  rw [configured_fselImg hc]
  refine ⟨fun hi => ?_, fun hi => ?_⟩
  · rw [hi]
    rcases unitSize_of_indexed hc hi with hP | hP <;> rw [hP]
    · exact .inl ⟨rfl, decodeFsel_index8 _⟩
    · exact .inr ⟨rfl, decodeFsel_index16 _⟩
  · rw [hi]
    obtain ⟨h1, h4⟩ := unitSize_range hc
    obtain hP | hP | hP | hP : s.job.unitSize = 1 ∨ s.job.unitSize = 2 ∨ s.job.unitSize = 3 ∨ s.job.unitSize = 4 := by
      omega
    all_goals rw [hP]
    · exact .inl ⟨rfl, decodeFsel_gray8 _⟩
    · cases s.isGray with
      | true => exact .inr (.inl ⟨rfl, rfl, decodeFsel_gray16a⟩)
      | false => exact .inr (.inr (.inl ⟨rfl, rfl, decodeFsel_hc15⟩))
    · exact .inr (.inr (.inr (.inl ⟨rfl, decodeFsel_tc24 _⟩)))
    · exact .inr (.inr (.inr (.inr ⟨rfl, decodeFsel_tc32 _⟩)))

/-- Settles O3: the reserved values are those of `decodeFsel_reserved_iff`, the sizes of a configured job avoid them, and
both dispatches raise on one. -/
theorem reservedSelectorsAreRefused : Obligations.ReservedSelectorsAreRefused := by
  refine ⟨decodeFsel_reserved_iff, fun s hc => ⟨?_, fun hi => ?_⟩, fun s hi hdepth hpass => ?_,
    fun s hb hp hund hr hx hres => ?_, fun ok f u hres => ?_⟩
  · rw [configured_fselImg hc]
    obtain ⟨h1, h4⟩ := unitSize_range hc
    refine fselWord_not_reserved _ h1 h4 fun hi => ?_
    rcases unitSize_of_indexed hc hi with hP | hP <;> omega
  · rw [(configured_entry hc hi).2]
    obtain ⟨h1, h4⟩ := entrySize_range hc hi
    exact fselWord_not_reserved _ h1 h4 nofun
  · have hdepths := ((checkConfig_depths hpass).1 hi).1
    omega
  · rw [engineTurn_resolve hb hp, turnResolve_reserved ⟨hr, hx⟩ hres]
    exact ⟨_, rfl, raise_endedWith s _ hund⟩
  · simp only [resolveDirect, hres]

/-! ### Control bytes -/

/-- The count is the low seven bits plus one (R48). -/
theorem packetCount_eq (cb : Byte) : packetCount cb = cb.toNat % 128 + 1 := by simp [packetCount]

/-- Bit 7 is set in the upper half of the control bytes (R47). -/
theorem bit7_iff (cb : Byte) : cb[7] = true ↔ 128 ≤ cb.toNat := by
  revert cb; decide

/-- The mask and match of RUN test bit 7 (R47). -/
theorem and_0x80_iff (cb : Byte) : cb &&& 0x80 = 0x80 ↔ cb[7] = true := by
  revert cb; decide

/-- A control byte is written from its own bit 7 and count (R54). -/
theorem controlByte_of_fields (cb : Byte) : controlByte cb[7] (packetCount cb) = cb := by
  revert cb; decide

/-- The bit 7 and the count of a written control byte (R47, R48, R54). -/
theorem controlByte_fields (isRun : Bool) {n : Nat} (hn : 1 ≤ n ∧ n ≤ 128) :
    (controlByte isRun n)[7] = isRun ∧ packetCount (controlByte isRun n) = n := by
  have h := decodeControl_controlByte isRun n hn
  rw [decodeControl_eq] at h
  cases isRun with
  | true =>
    split at h
    next hbit => exact ⟨hbit, Instr.run.inj h⟩
    next => cases h
  | false =>
    split at h
    next => cases h
    next hbit => exact ⟨Bool.eq_false_of_not_eq_true hbit, Instr.raw.inj h⟩

/-- Settles O2: the count is `packetCount`, and bit 7 splits the bytes at 128. -/
theorem everyControlByteIsAPacket : Obligations.EveryControlByteIsAPacket := by
  intro cb
  obtain ⟨h1, h128⟩ := packetCount_range cb
  refine ⟨packetCount cb, packetCount_eq cb, h1, h128, ?_⟩
  simp only [decodeControl_eq, bit7_iff]

/-! ### Instructions and encoded objects -/

theorem wellFormed_run_iff (n : Nat) : (Instr.run n).wellFormed = true ↔ 1 ≤ n ∧ n ≤ 128 := by
  simp [Instr.wellFormed]

theorem wellFormed_raw_iff (n : Nat) : (Instr.raw n).wellFormed = true ↔ 1 ≤ n ∧ n ≤ 128 := by
  simp [Instr.wellFormed]

/-- The word of an instruction decodes to it. -/
theorem decode_encode {i : Instr} (h : i.wellFormed = true) : decode (encode i) = .ok i := by
  cases i with
  | run n => exact congrArg Except.ok (decodeControl_controlByte true n ((wellFormed_run_iff n).1 h))
  | raw n => exact congrArg Except.ok (decodeControl_controlByte false n ((wellFormed_raw_iff n).1 h))
  | gray8 g => exact decodeFsel_gray8 g
  | gray16a => exact decodeFsel_gray16a
  | hc15 => exact decodeFsel_hc15
  | tc24 g => exact decodeFsel_tc24 g
  | tc32 g => exact decodeFsel_tc32 g
  | index8 g => exact decodeFsel_index8 g
  | index16 g => exact decodeFsel_index16 g
  | start v => exact (decodeStart_eq v).trans (if_pos h)

/-- The packet of a control byte is well-formed and written as that byte (R48, R50). -/
theorem encode_decodeControl (cb : Byte) :
    (decodeControl cb).wellFormed = true ∧ encode (decodeControl cb) = .control cb := by
  have hbyte := controlByte_of_fields cb
  rw [decodeControl_eq]
  cases hbit : cb[7] with
  | false =>
    rw [hbit] at hbyte
    exact ⟨(wellFormed_raw_iff _).2 (packetCount_range cb), congrArg Encoded.control hbyte⟩
  | true =>
    rw [hbit] at hbyte
    exact ⟨(wellFormed_run_iff _).2 (packetCount_range cb), congrArg Encoded.control hbyte⟩

/-- What an encoded object decodes to is well-formed and is written as that object. -/
theorem encode_of_decode {e : Encoded} {i : Instr} (h : decode e = .ok i) :
    i.wellFormed = true ∧ encode i = e := by
  cases e with
  | control cb => cases h; exact encode_decodeControl cb
  | fsel f => exact ⟨wellFormed_of_decodeFsel h, encode_of_decodeFsel h⟩
  | ctrlWrite v =>
    rw [decode, decodeStart_eq] at h
    split at h
    next hv => cases h; exact ⟨hv, rfl⟩
    next => cases h

/-- Settles O4: one direction instruction by instruction, the other by the kind of the object. -/
theorem decodeAndEncodeAgree : Obligations.DecodeAndEncodeAgree :=
  ⟨fun _ => decode_encode, fun _ _ => encode_of_decode⟩

/-- Settles O1: each word is computed. -/
theorem wordsOfEachFamilyDecode : Obligations.WordsOfEachFamilyDecode :=
  ⟨rfl, rfl, rfl, rfl, rfl, rfl, rfl, rfl, rfl, rfl⟩

/-! ### Packets with their units -/

theorem packet_wellFormed_run_iff {P n : Nat} {u : List Byte} :
    (Packet.run n u).wellFormed P = true ↔ (1 ≤ n ∧ n ≤ 128) ∧ u.length = P := by
  simp [Packet.wellFormed]

theorem packet_wellFormed_raw_iff {P n : Nat} {us : List (List Byte)} :
    (Packet.raw n us).wellFormed P = true ↔ (1 ≤ n ∧ n ≤ 128) ∧ us.length = n ∧ ∀ u ∈ us, u.length = P := by
  simp [Packet.wellFormed, and_assoc]

/-- Units of P bytes fill P bytes each. -/
theorem flatten_length_of_units {P : Nat} {us : List (List Byte)} (h : ∀ u ∈ us, u.length = P) :
    us.flatten.length = us.length * P := by
  rw [List.length_flatten, List.sum_eq_card_nsmul _ P (by simpa using h), List.length_map, smul_eq_mul]

/-- The bytes of a RUN are its control byte and its unit (R49). -/
theorem assemblePacket_run_length {P n : Nat} {u : List Byte} (hu : u.length = P) :
    (assemblePacket (.run n u)).length = 1 + P := by
  rw [assemblePacket, List.length_cons, hu, Nat.add_comm]

/-- The bytes of a RAW are its control byte and its units (R49). -/
theorem assemblePacket_raw_length {P n : Nat} {us : List (List Byte)} (hlen : us.length = n)
    (hu : ∀ u ∈ us, u.length = P) : (assemblePacket (.raw n us)).length = 1 + n * P := by
  rw [assemblePacket, List.length_cons, flatten_length_of_units hu, hlen, Nat.add_comm]

theorem splitUnits_succ (P n : Nat) (bs : List Byte) :
    splitUnits P (n + 1) bs = bs.take P :: splitUnits P n (bs.drop P) := by
  simp [splitUnits, unitAt, List.range_succ_eq_map, Nat.succ_mul, Nat.add_comm]

/-- Units of P bytes are found again in their bytes, whatever follows. -/
theorem splitUnits_flatten {P : Nat} {us : List (List Byte)} (h : ∀ u ∈ us, u.length = P) (rest : List Byte) :
    splitUnits P us.length (us.flatten ++ rest) = us := by
  induction us with
  | nil => rfl
  | cons u us ih =>
    obtain ⟨hu, hus⟩ := List.forall_mem_cons.1 h
    rw [List.length_cons, splitUnits_succ, List.flatten_cons, List.append_assoc, List.take_left' hu, List.drop_left' hu,
      ih hus]

/-- A byte stream that begins with the control byte of a RUN, and has its unit (R49). -/
theorem decodePacket_run {P n : Nat} {bs : List Byte} (hn : 1 ≤ n ∧ n ≤ 128) (hlen : P ≤ bs.length) :
    decodePacket P (controlByte true n :: bs) = .ok (.run n (bs.take P), bs.drop P) := by
  obtain ⟨hbit, hcount⟩ := controlByte_fields true hn
  simp only [decodePacket, if_pos ((and_0x80_iff _).2 hbit), hcount, if_neg (Nat.not_lt.2 hlen)]

/-- A byte stream that begins with the control byte of a RAW, and has its units (R49). -/
theorem decodePacket_raw {P n : Nat} {bs : List Byte} (hn : 1 ≤ n ∧ n ≤ 128) (hlen : n * P ≤ bs.length) :
    decodePacket P (controlByte false n :: bs) = .ok (.raw n (splitUnits P n bs), bs.drop (n * P)) := by
  obtain ⟨hbit, hcount⟩ := controlByte_fields false hn
  simp only [decodePacket, and_0x80_iff, hbit, hcount, if_neg (Nat.not_lt.2 hlen), Bool.false_eq_true, if_false]

/-- Settles O5: the control byte gives the packet's kind and count back, and these and P its units. -/
theorem assembledPacketsReadBack : Obligations.AssembledPacketsReadBack := by
  intro P p rest h
  cases p with
  | run n u =>
    obtain ⟨hn, hu⟩ := packet_wellFormed_run_iff.1 h
    refine ⟨?_, assemblePacket_run_length hu⟩
    rw [assemblePacket, List.cons_append, decodePacket_run hn (by simp [hu]), List.take_left' hu, List.drop_left' hu]
  | raw n us =>
    obtain ⟨hn, hlen, hu⟩ := packet_wellFormed_raw_iff.1 h
    refine ⟨?_, assemblePacket_raw_length hlen hu⟩
    have hbytes : us.flatten.length = n * P := hlen ▸ flatten_length_of_units hu
    rw [assemblePacket, List.cons_append, decodePacket_raw hn (by simp [hbytes]), List.drop_left' hbytes, ← hlen,
      splitUnits_flatten hu]

/-- A well-formed packet passes each check of the assembler (R54). -/
theorem assemble_of_wellFormed {P : Nat} {p : Packet} (h : p.wellFormed P = true) :
    assemble P p = .ok (assemblePacket p) := by
  cases p with
  | run n u =>
    obtain ⟨hn, hu⟩ := packet_wellFormed_run_iff.1 h
    rw [assemble, if_neg (by omega), if_neg (not_not.2 hu)]
  | raw n us =>
    obtain ⟨hn, hlen, hu⟩ := packet_wellFormed_raw_iff.1 h
    rw [assemble, if_neg (by omega), if_neg (not_not.2 hlen), if_pos (by simpa using hu)]

/-- A packet that passes the checks of the assembler is well-formed, and its bytes are the answer (R54). -/
theorem wellFormed_of_assemble {P : Nat} {p : Packet} {bs : List Byte} (h : assemble P p = .ok bs) :
    p.wellFormed P = true ∧ bs = assemblePacket p := by
  cases p with
  | run n u =>
    rw [assemble] at h
    split at h
    next => cases h
    split at h
    next => cases h
    next hn hu =>
      cases h
      exact ⟨packet_wellFormed_run_iff.2 ⟨by omega, not_not.1 hu⟩, rfl⟩
  | raw n us =>
    rw [assemble] at h
    split at h
    next => cases h
    split at h
    next => cases h
    split at h
    next hn hlen hu =>
      cases h
      exact ⟨packet_wellFormed_raw_iff.2 ⟨by omega, not_not.1 hlen, by simpa using hu⟩, rfl⟩
    next => cases h

/-- Settles O6: the assembler's checks are the clauses of well-formedness. -/
theorem assemblerAcceptsExactlyWellFormedPackets : Obligations.AssemblerAcceptsExactlyWellFormedPackets :=
  fun _ _ _ => ⟨wellFormed_of_assemble, fun ⟨hwf, hbs⟩ => hbs ▸ assemble_of_wellFormed hwf⟩

/-! ### The pseudo-instructions -/

theorem pseudo_wellFormed_fill_iff {P n : Nat} {u : List Byte} :
    (PseudoPacket.fill n u).wellFormed P = true ↔ 1 ≤ n ∧ u.length = P := by
  simp [PseudoPacket.wellFormed]

theorem pseudo_wellFormed_copy_iff {P : Nat} {us : List (List Byte)} :
    (PseudoPacket.copy us).wellFormed P = true ↔ 1 ≤ us.length ∧ ∀ u ∈ us, u.length = P := by
  simp [PseudoPacket.wellFormed]

/-- The packets of a FILL are RUNs of 128 and of n mod 128 copies (R54). -/
theorem expandFill_wellFormed {P n : Nat} {u : List Byte} (hu : u.length = P) :
    ∀ q ∈ expandPseudo (.fill n u), q.wellFormed P = true := by
  intro q hq
  rcases List.mem_append.1 hq with hfull | hrest
  · obtain rfl := List.eq_of_mem_replicate hfull
    exact packet_wellFormed_run_iff.2 ⟨by decide, hu⟩
  · split at hrest
    next => cases hrest
    next hmod =>
      obtain rfl := List.mem_singleton.1 hrest
      exact packet_wellFormed_run_iff.2 ⟨by omega, hu⟩

/-- RUNs of 128 stand for 128 copies each. -/
theorem units_of_full_runs (k : Nat) (u : List Byte) :
    (List.replicate k (Packet.run 128 u)).flatMap Packet.units = List.replicate (k * 128) u := by
  rw [List.flatMap_def, List.map_replicate, Packet.units, List.flatten_replicate_replicate]

/-- The last RUN stands for the copies that are left, if any. -/
theorem units_of_last_run (m : Nat) (u : List Byte) :
    (if m = 0 then [] else [Packet.run m u]).flatMap Packet.units = List.replicate m u := by
  split
  next hm => rw [hm]; rfl
  next => exact List.flatMap_singleton ..

/-- The packets of a FILL stand for its n copies (R54). -/
theorem expandFill_units (n : Nat) (u : List Byte) :
    (expandPseudo (.fill n u)).flatMap Packet.units = List.replicate n u := by
  rw [expandPseudo, List.flatMap_append, units_of_full_runs, units_of_last_run, List.replicate_append_replicate,
    Nat.div_add_mod']

/-- The packets of a COPY are RAWs of 128 units and of the units that are left (R54). -/
theorem expandCopy_wellFormed {P : Nat} {us : List (List Byte)} (hu : ∀ u ∈ us, u.length = P) :
    ∀ q ∈ expandPseudo (.copy us), q.wellFormed P = true := by
  intro q hq
  rcases List.mem_append.1 hq with hfull | hrest
  · obtain ⟨k, hk, rfl⟩ := List.mem_map.1 hfull
    have hin : k < us.length / 128 := List.mem_range.1 hk
    refine packet_wellFormed_raw_iff.2
      ⟨by decide, ?_, fun u hmem => hu u (List.mem_of_mem_drop (List.mem_of_mem_take hmem))⟩
    rw [List.length_take, List.length_drop]
    omega
  · split at hrest
    next => cases hrest
    next hmod =>
      obtain rfl := List.mem_singleton.1 hrest
      refine packet_wellFormed_raw_iff.2 ⟨by omega, ?_, fun u hmem => hu u (List.mem_of_mem_drop hmem)⟩
      rw [List.length_drop]
      omega

/-- The first k RAWs of 128 stand for the first 128 × k units. -/
theorem units_of_full_raws (us : List (List Byte)) (k : Nat) :
    ((List.range k).map (fun i => Packet.raw 128 ((us.drop (128 * i)).take 128))).flatMap Packet.units
      = us.take (128 * k) := by
  induction k with
  | zero => rfl
  | succ k ih =>
    rw [List.range_succ, List.map_append, List.flatMap_append, ih, Nat.mul_succ, List.take_add]
    exact congrArg _ (List.flatMap_singleton ..)

/-- The last RAW stands for the units that are left, if any. -/
theorem units_of_last_raw (us : List (List Byte)) :
    (if us.length % 128 = 0 then []
      else [Packet.raw (us.length % 128) (us.drop (128 * (us.length / 128)))]).flatMap Packet.units
      = us.drop (128 * (us.length / 128)) := by
  split
  next hmod => exact (List.drop_eq_nil_of_le (by omega)).symm
  next => exact List.flatMap_singleton ..

/-- The packets of a COPY stand for its units in order (R54). -/
theorem expandCopy_units (us : List (List Byte)) : (expandPseudo (.copy us)).flatMap Packet.units = us := by
  rw [expandPseudo, List.flatMap_append, units_of_full_raws, units_of_last_raw, List.take_append_drop]

/-- Settles O7: for each pseudo-instruction the packets of 128 and the packet of the rest. -/
theorem pseudoExpansionKeepsTheUnits : Obligations.PseudoExpansionKeepsTheUnits := by
  intro P p h
  cases p with
  | fill n u =>
    obtain ⟨-, hu⟩ := pseudo_wellFormed_fill_iff.1 h
    exact ⟨expandFill_wellFormed hu, expandFill_units n u⟩
  | copy us =>
    obtain ⟨-, hu⟩ := pseudo_wellFormed_copy_iff.1 h
    exact ⟨expandCopy_wellFormed hu, expandCopy_units us⟩

/-! ### The turn over an assembled packet -/

theorem srcBytes_succ (s : State) (a n : Nat) : s.srcBytes a (n + 1) = s.srcByte a :: s.srcBytes (a + 1) n := by
  simp [State.srcBytes, List.range_succ_eq_map, Nat.add_comm, Nat.add_left_comm]

/-- SRC bytes that begin with `b` are that byte and the bytes after it. -/
theorem srcBytes_eq_cons {s : State} {a n : Nat} {b : Byte} {bs : List Byte} (h : s.srcBytes a (1 + n) = b :: bs) :
    s.srcByte a = b ∧ s.srcBytes (a + 1) n = bs := by
  rw [Nat.add_comm, srcBytes_succ] at h
  exact List.cons.inj h

/-- The loop reads a written control byte and runs its packet on the state past it (R55). -/
theorem turnRle_controlByte {s : State} {isRun : Bool} {n : Nat} (hn : 1 ≤ n ∧ n ≤ 128)
    (hcb : s.srcByte s.rd = controlByte isRun n) (hmore : s.out < s.job.expected) (hrd : s.rd < s.dataEnd.toNat) :
    turnRle s = exec (if isRun then .run n else .raw n) s.takeControl := by
  rw [turnRle, if_neg (Nat.not_le.2 hmore), if_neg (Nat.not_le.2 hrd), hcb, decodeControl_controlByte isRun n hn]

/-- Taking the control byte and then `k` unit bytes moves `rd` past all of them. -/
theorem takeControl_produce (s : State) (k : Nat) (bs : List Byte) :
    s.takeControl.produce k bs = { s with raw := s.raw ++ bs, rd := s.rd + (1 + k) } := by
  rw [← Nat.add_assoc]
  rfl

/-- A turn at the control byte of a RUN that fits (R55, R56). -/
theorem turnRle_run {s : State} {n : Nat} (hn : 1 ≤ n ∧ n ≤ 128) (hcb : s.srcByte s.rd = controlByte true n)
    (hmore : s.out < s.job.expected) (hfit : s.out + n * s.job.unitSize ≤ s.job.expected)
    (hneed : s.rd + (1 + s.job.unitSize) ≤ s.dataEnd.toNat) :
    turnRle s = .next { s with
      raw := s.raw ++ (List.replicate n (s.srcBytes (s.rd + 1) s.job.unitSize)).flatten
      rd := s.rd + (1 + s.job.unitSize) } := by
  rw [turnRle_controlByte hn hcb hmore (by omega), ← takeControl_produce]
  rw [← Nat.add_assoc] at hneed
  exact congrArg _ (packetEffect_fits (s := s.takeControl) hfit hneed)

/-- A turn at the control byte of a RAW that fits (R55, R57). -/
theorem turnRle_raw {s : State} {n : Nat} (hn : 1 ≤ n ∧ n ≤ 128) (hcb : s.srcByte s.rd = controlByte false n)
    (hmore : s.out < s.job.expected) (hfit : s.out + n * s.job.unitSize ≤ s.job.expected)
    (hneed : s.rd + (1 + n * s.job.unitSize) ≤ s.dataEnd.toNat) :
    turnRle s = .next { s with
      raw := s.raw ++ s.srcBytes (s.rd + 1) (n * s.job.unitSize)
      rd := s.rd + (1 + n * s.job.unitSize) } := by
  rw [turnRle_controlByte hn hcb hmore (by omega), ← takeControl_produce]
  rw [← Nat.add_assoc] at hneed
  exact congrArg _ (packetEffect_fits (s := s.takeControl) hfit hneed)

/-- Settles O17: SRC gives the packet's control byte and its unit bytes, and the packet fits. -/
theorem assembledPacketRuns : Obligations.AssembledPacketRuns := by
  intro s p hb hp hwf hmore hsrc hend hfit
  rw [engineTurn_rle hb hp]
  cases p with
  | run n u =>
    obtain ⟨hn, hu⟩ := packet_wellFormed_run_iff.1 hwf
    have hcount : (Packet.run n u).units.length = n := List.length_replicate
    rw [hcount] at hfit
    rw [assemblePacket_run_length hu] at hend hsrc ⊢
    obtain ⟨hcb, hunit⟩ := srcBytes_eq_cons hsrc
    rw [turnRle_run hn hcb hmore hfit hend, hunit]
    rfl
  | raw n us =>
    obtain ⟨hn, hlen, hu⟩ := packet_wellFormed_raw_iff.1 hwf
    have hcount : (Packet.raw n us).units.length = n := hlen
    rw [hcount] at hfit
    rw [assemblePacket_raw_length hlen hu] at hend hsrc ⊢
    obtain ⟨hcb, hunits⟩ := srcBytes_eq_cons hsrc
    rw [turnRle_raw hn hcb hmore hfit hend, hunits]
    rfl

end Sys2Proof.Machine
end

section
/-! The run-length decoder: how a turn of the packet loop takes its control byte (R55), what RUN and RAW produce and when
they end the job (R56 to R60), and which SRC bytes a turn reads (R62). -/

namespace Sys2Proof.Machine

/-! ### The control byte -/

/-- With output to make and input left, the loop takes the control byte at `rd` and runs its packet (R55). -/
theorem turnRle_takes {s : State} (hmore : s.out < s.job.expected) (hrd : s.rd < s.dataEnd.toNat) :
    turnRle s = exec (decodeControl (s.srcByte s.rd)) s.takeControl := by
  rw [turnRle, if_neg (Nat.not_le.2 hmore), if_neg (Nat.not_le.2 hrd)]

/-- A control byte at or past DATA_END is TruncatedStreamError (R59). -/
theorem turnRle_exhausted {s : State} (hmore : s.out < s.job.expected) (hend : s.dataEnd.toNat ≤ s.rd) :
    turnRle s = .next (s.raise .truncatedStream) := by
  rw [turnRle, if_neg (Nat.not_le.2 hmore), if_pos hend]

theorem engineTurn_takes {s : State} (hb : s.status = .busy) (hp : s.phase = .rle) (hmore : s.out < s.job.expected)
    (hrd : s.rd < s.dataEnd.toNat) : engineTurn s = exec (decodeControl (s.srcByte s.rd)) s.takeControl :=
  (engineTurn_rle hb hp).trans (turnRle_takes hmore hrd)

/-- Settles O9: the step is the packet loop's turn over the engine's view, and that turn takes the control byte. -/
theorem stepRunsTheControlByte : Obligations.StepRunsTheControlByte := by
  intro s i hturn hb hp hmore hrd hi
  have hdecode : decodeControl (s.srcByte s.rd) = i := Except.ok.inj hi
  rw [step_engine hturn, engineView_eq, ← hdecode]
  exact engineTurn_takes (s := { s with hostQueue := s.engineView.hostQueue }) hb hp hmore hrd

/-! ### What a packet appends -/

@[simp] theorem produce_out (s : State) (k : Nat) (bs : List Byte) : (s.produce k bs).out = s.out + bs.length :=
  List.length_append

/-- The bytes that RAW holds stay where they are. -/
theorem produce_raw_old {s : State} {a : Nat} (k : Nat) (bs : List Byte) (h : a < s.out) :
    (s.produce k bs).raw[a]? = s.raw[a]? := List.getElem?_append_left h

/-- The new bytes follow them. -/
theorem produce_raw_new (s : State) (k : Nat) (bs : List Byte) (j : Nat) :
    (s.produce k bs).raw[s.out + j]? = bs[j]? := by
  rw [produce_raw, State.out, List.getElem?_append_right (Nat.le_add_right _ _), Nat.add_sub_cancel_left]

/-- A RUN that fits (R56). -/
theorem exec_run_fits {n : Nat} {s : State} (hfit : s.out + n * s.job.unitSize ≤ s.job.expected)
    (hneed : s.rd + s.job.unitSize ≤ s.dataEnd.toNat) :
    exec (.run n) s
      = .next (s.produce s.job.unitSize (List.replicate n (s.srcBytes s.rd s.job.unitSize)).flatten) :=
  congrArg _ (packetEffect_fits hfit hneed)

/-- A RAW that fits (R57). -/
theorem exec_raw_fits {n : Nat} {s : State} (hfit : s.out + n * s.job.unitSize ≤ s.job.expected)
    (hneed : s.rd + n * s.job.unitSize ≤ s.dataEnd.toNat) :
    exec (.raw n) s = .next (s.produce (n * s.job.unitSize) (s.srcBytes s.rd (n * s.job.unitSize))) :=
  congrArg _ (packetEffect_fits hfit hneed)

/-! ### When a packet ends the job -/

/-- A packet that overshoots N or passes DATA_END ends an undisturbed job in TruncatedStreamError (R59, R60). -/
theorem packetEffect_endedWith {count need : Nat} {bs : List Byte} {s : State} (hund : s.srcDisturbed = false)
    (h : s.job.expected < s.out + count * s.job.unitSize ∨ s.dataEnd.toNat < s.rd + need) :
    endedWith s .truncatedStream (packetEffect count need bs s) := by
  rcases h with hover | hshort
  · rw [packetEffect_overshoots hover]
    exact raise_endedWith s _ hund
  · rw [packetEffect_short hshort]
    exact raise_endedWith s _ hund

theorem exec_run_truncated {n : Nat} {s : State} (hund : s.srcDisturbed = false)
    (h : s.job.expected < s.out + n * s.job.unitSize ∨ s.dataEnd.toNat < s.rd + s.job.unitSize) :
    ∃ t, exec (.run n) s = .next t ∧ endedWith s .truncatedStream t :=
  ⟨_, rfl, packetEffect_endedWith hund h⟩

theorem exec_raw_truncated {n : Nat} {s : State} (hund : s.srcDisturbed = false)
    (h : s.job.expected < s.out + n * s.job.unitSize ∨ s.dataEnd.toNat < s.rd + n * s.job.unitSize) :
    ∃ t, exec (.raw n) s = .next t ∧ endedWith s .truncatedStream t :=
  ⟨_, rfl, packetEffect_endedWith hund h⟩

/-- After an error no DST byte is fixed (R32). -/
theorem endedWith_dstByte {s t : State} {e : JobError} (h : endedWith s e t) (a : Nat) : t.dstByte a = none := by
  rw [endedWith] at h
  exact dstByte_eq_none a (.inl (by simp [h]))

/-- Settles O12: the copies are found by quotient and remainder after the bytes that RAW held. -/
theorem runRepeatsItsUnit : Obligations.RunRepeatsItsUnit := by
  intro n s
  refine ⟨fun hfit hneed => ⟨_, exec_run_fits hfit hneed, rfl, by simp, fun a ha => produce_raw_old _ _ ha,
    fun j k hj hk => ?_⟩, fun hund hshort => exec_run_truncated hund (.inr hshort)⟩
  have hcopy := replicate_flatten_getElem? n j k (s.srcBytes s.rd s.job.unitSize) hj (by simpa using hk)
  rw [srcBytes_length] at hcopy
  rw [Nat.add_assoc, produce_raw_new, hcopy, srcBytes_getElem? s _ _ k hk]

/-- Settles O13: the literals stand in their order after the bytes that RAW held. -/
theorem rawCopiesItsLiterals : Obligations.RawCopiesItsLiterals := by
  intro n s
  refine ⟨fun hfit hneed => ⟨_, exec_raw_fits hfit hneed, rfl, by simp, fun a ha => produce_raw_old _ _ ha,
    fun j hj => ?_⟩, fun hund hshort => exec_raw_truncated hund (.inr hshort)⟩
  rw [produce_raw_new, srcBytes_getElem? s _ _ j hj]

/-- Settles O14, case by case of R59. -/
theorem runningOutOfInputIsFatal : Obligations.RunningOutOfInputIsFatal := by
  intro s hund
  refine ⟨fun hb hp hmore hend => ?_, fun n hshort => ?_, fun n hshort => ?_⟩
  · have hended := raise_endedWith s .truncatedStream hund
    exact ⟨_, (engineTurn_rle hb hp).trans (turnRle_exhausted hmore hend), hended, endedWith_dstByte hended⟩
  · obtain ⟨t, ht, hended⟩ := exec_run_truncated (n := n) hund (.inr hshort)
    exact ⟨t, ht, hended, endedWith_dstByte hended⟩
  · obtain ⟨t, ht, hended⟩ := exec_raw_truncated (n := n) hund (.inr hshort)
    exact ⟨t, ht, hended, endedWith_dstByte hended⟩

/-- Settles O15: the count is checked against N before DATA_END and before any unit byte is read. -/
theorem overproductionIsFatal : Obligations.OverproductionIsFatal :=
  fun _ _ hund hover => ⟨exec_run_truncated hund (.inl hover), exec_raw_truncated hund (.inl hover)⟩

/-! ### Which SRC bytes a turn reads -/

/-- The contents `m` agree with SRC from `rd` up to offset `e`. -/
def State.sameUpTo (s : State) (m : Memory) (e : Nat) : Prop :=
  ∀ a, s.rd ≤ a → a < e → ({ s with src := m } : State).srcByte a = s.srcByte a

/-- A turn of the packet loop depends on the SRC bytes below `e` alone, where `e` is past the control byte if one is
left before DATA_END, and past the unit bytes if they all are. -/
theorem turnRle_src_update_of_sameUpTo {s : State} {m : Memory} {e : Nat} (hm : s.sameUpTo m e)
    (hcontrol : s.rd < s.dataEnd.toNat → s.rd < e)
    (hunits : s.rd + 1 + packetNeed s (s.srcByte s.rd) ≤ s.dataEnd.toNat →
      s.rd + 1 + packetNeed s (s.srcByte s.rd) ≤ e) :
    turnRle { s with src := m } = mapNext (fun t => { t with src := m }) (turnRle s) := by
  by_cases hfull : s.job.expected ≤ s.out
  · rw [turnRle, turnRle, if_pos hfull]
    exact if_pos hfull
  have hmore : s.out < s.job.expected := Nat.not_le.1 hfull
  by_cases hend : s.dataEnd.toNat ≤ s.rd
  · rw [turnRle_exhausted hmore hend, turnRle_exhausted (s := { s with src := m }) hmore hend]
    exact congrArg _ (endJob_src_update s m _)
  have hrd : s.rd < s.dataEnd.toNat := Nat.not_le.1 hend
  rw [turnRle_takes hmore hrd, turnRle_takes (s := { s with src := m }) hmore hrd,
    hm s.rd (Nat.le_refl _) (hcontrol hrd), exec_decodeControl, exec_decodeControl]
  refine congrArg _ (packetEffect_src_update (s := s.takeControl) m fun hneed => ?_)
  exact packetBytes_congr (s := s.takeControl) fun k hlo hhi =>
    hm k (Nat.le_of_succ_le hlo) (Nat.lt_of_lt_of_le hhi (hunits hneed))

/-- A turn of the packet loop leaves RAW and the loop, or appends a packet that fits and stays in the loop. -/
theorem turnRle_next {s t : State} (h : turnRle s = .next t) :
    (t.raw = s.raw ∧ t.phase ≠ .rle)
    ∨ (t.out ≤ s.job.expected ∧ t.rd = s.rd + 1 + packetNeed s (s.srcByte s.rd) ∧ t.rd ≤ s.dataEnd.toNat) := by
  rcases turnRle_cases s with ⟨-, he⟩ | ⟨-, -, he⟩ | ⟨-, -, -, he⟩ | ⟨-, -, hfit, hneed, he⟩ <;>
    cases he.symm.trans h
  · exact .inl ⟨rfl, by simp⟩
  · exact .inl ⟨endJob_raw .., by simp [State.raise]⟩
  · exact .inl ⟨endJob_raw .., by simp [State.raise]⟩
  · refine .inr ⟨?_, rfl, hneed⟩
    rw [produce_out, packetBytes_length]
    exact hfit

/-- Settles O16: once with the region's end as the bound of the bytes read, and, while the loop goes on, with `rd` after
the turn as that bound. -/
theorem decoderReadsForwardInsideItsRegion : Obligations.DecoderReadsForwardInsideItsRegion := by
  intro s t m hb hp _ hout ht
  rw [engineTurn_rle hb hp] at ht
  have hupdate {e : Nat} (hcontrol : s.rd < s.dataEnd.toNat → s.rd < e)
      (hunits : s.rd + 1 + packetNeed s (s.srcByte s.rd) ≤ s.dataEnd.toNat →
        s.rd + 1 + packetNeed s (s.srcByte s.rd) ≤ e) (hm : s.sameUpTo m e) :
      engineTurn { s with src := m } = .next { t with src := m } := by
    rw [engineTurn_rle (s := { s with src := m }) hb hp, turnRle_src_update_of_sameUpTo hm hcontrol hunits, ht]
    rfl
  refine ⟨hupdate id id, ?_⟩
  rcases turnRle_next ht with ⟨hraw, hleft⟩ | ⟨hfit, hrd, hend⟩
  · exact ⟨by rwa [State.out, hraw], fun hstay => absurd hstay hleft⟩
  · exact ⟨hfit, fun _ => ⟨by omega, hend, hupdate (fun _ => by omega) fun _ => Nat.le_of_eq hrd.symm⟩⟩

end Sys2Proof.Machine
end

section
/-! The pixel-format resolver: what each format makes of its unit (R63 to R73), that equal units of an indexed image
resolve equally (R76), how a step comes to run a format (R75), and the order of the rows (R74). -/

namespace Sys2Proof.Machine

/-! ### From the resolved unit to the answer -/

/-- A format whose unit resolves to a quad writes it (R75). -/
theorem exec_quad {f : Byte} {i : Instr} {s : State} {q : Rgba} (hi : decodeFsel f = .ok i)
    (hq : resolvedBy i s = .quad q) : ∃ t, exec i s = .next t ∧ pixelWritten s t q := by
  rw [exec_format hi, hq]
  exact emit_quad s q

/-- A format whose unit resolves to an error ends an undisturbed job with it (R84). -/
theorem exec_raises {f : Byte} {i : Instr} {s : State} {e : JobError} (hi : decodeFsel f = .ok i)
    (he : resolvedBy i s = .raises e) (hund : s.srcDisturbed = false) :
    ∃ t, exec i s = .next t ∧ endedWith s e t := by
  rw [exec_format hi, he]
  exact ⟨_, rfl, raise_endedWith s e hund⟩

/-! ### The direct formats -/

/-- Settles O18: the one byte is every colour channel. -/
theorem gray8Result : Obligations.Gray8Result :=
  fun g _ _ hu => exec_quad (decodeFsel_gray8 g) (congrArg resolveGray8 hu)

/-- Settles O19: the second byte is the alpha of black. -/
theorem gray16aResult : Obligations.Gray16aResult :=
  fun _ _ _ hu => exec_quad decodeFsel_gray16a (congrArg resolveGray16a hu)

/-- Settles O20: each field is below 32, so `exp5` expands it without overflow. -/
theorem hc15Result : Obligations.Hc15Result := by
  intro b0 b1 s hu
  obtain ⟨t, ht, hwritten⟩ := exec_quad decodeFsel_hc15 (congrArg resolveHc15 hu)
  have hfield : ∀ v, (exp5 (v % 32)).toNat = (255 * (v % 32) + 15) / 31 :=
    fun v => exp5_toNat _ (Nat.mod_lt _ (by decide))
  exact ⟨t, highColour (le16 b0 b1), ht, hwritten, hfield _, hfield _, hfield _, rfl⟩

/-- Settles O21: the rounding bounds follow from the quotient, since 31 is odd and no tie occurs. -/
theorem channelExpansionRounds : Obligations.ChannelExpansionRounds := by
  refine ⟨fun f hf => ?_, by decide⟩
  have hexp := exp5_toNat f (Nat.lt_succ_of_le hf)
  exact ⟨hexp, by omega, by omega⟩

/-- Settles O22: the stored order B, G, R is turned round. -/
theorem tc24Result : Obligations.Tc24Result :=
  fun gr _ _ _ _ hu => exec_quad (decodeFsel_tc24 gr) (congrArg resolveTc24 hu)

/-- Settles O23: ALPHA_OK of Derive is the condition on ATTR. -/
theorem tc32Result : Obligations.Tc32Result := by
  intro gr b g r a s hu hj
  have halpha : s.job.alphaOk = s.alphaHonored := by rw [hj]; rfl
  simp only [← alphaHonored_iff, ← halpha]
  exact exec_quad (decodeFsel_tc32 gr) (congrArg (resolveTc32 s.job.alphaOk) hu)

/-! ### The indexed formats -/

/-- Where a configured indexed job finds a palette entry (R39). -/
theorem configured_entryOffset {s : State} (hc : s.configured) (hi : s.indexed = true) (k : Nat) :
    s.entryOffset k = 18 + s.idLength + s.cmOrigin + k * ((s.cmEntryDepth + 7) / 8) := by
  have hbase : s.job.paletteBase = 18 + s.idLength + s.cmOrigin := by rw [hc.2]; rfl
  rw [State.entryOffset, hbase, (configured_entry hc hi).1]

/-- A format that looks up palette entry `k`, its size and its offset given: the entry's colour is written, or the job
ends in PaletteRangeError (R72, R73). -/
theorem exec_paletteEntry {f : Byte} {i : Instr} {s : State} {k E off : Nat} (hi : decodeFsel f = .ok i)
    (hk : resolvedBy i s = paletteEntry s k) (hc : s.configured) (hidx : s.indexed = true)
    (hE : s.job.entrySize = E) (hoff : s.entryOffset k = off) :
    (off + E ≤ s.srcLen.toNat → ∃ t, exec i s = .next t
      ∧ pixelWritten s t (entryColour E s.isGray s.alphaHonored (fun j => s.srcByte (off + j))))
    ∧ (s.srcLen.toNat < off + E → s.srcDisturbed = false →
      ∃ t, exec i s = .next t ∧ endedWith s .paletteRange t) := by
  subst hE hoff
  exact ⟨fun hin => exec_quad hi (hk.trans (paletteEntry_inside hc hidx hin)),
    fun hpast hund => exec_raises hi (hk.trans (paletteEntry_past hpast)) hund⟩

/-- Settles O24: INDEX8 looks up entry b0. -/
theorem index8Result : Obligations.Index8Result := fun g _ s hc hidx hu =>
  exec_paletteEntry (decodeFsel_index8 g) (congrArg (resolveIndex8 s) hu) hc hidx (configured_entry hc hidx).1
    (configured_entryOffset hc hidx _)

/-- Settles O25: INDEX16 looks up entry b0 + 256 × b1. -/
theorem index16Result : Obligations.Index16Result := fun g _ _ s hc hidx hu =>
  exec_paletteEntry (decodeFsel_index16 g) (congrArg (resolveIndex16 s) hu) hc hidx (configured_entry hc hidx).1
    (configured_entryOffset hc hidx _)

/-- Settles O27: the range check of the palette entry, which needs no configured job. -/
theorem paletteReadPastSrcLenIsFatal : Obligations.PaletteReadPastSrcLenIsFatal := by
  intro g s hund
  refine ⟨fun b0 hu hpast => ?_, fun b0 b1 hu hpast => ?_⟩
  · exact exec_raises (decodeFsel_index8 g) ((congrArg (resolveIndex8 s) hu).trans (paletteEntry_past hpast)) hund
  · exact exec_raises (decodeFsel_index16 g) ((congrArg (resolveIndex16 s) hu).trans (paletteEntry_past hpast)) hund

/-! ### Equal units -/

/-- The direct dispatch raises for a selector that names no direct format, and in no other way (R52, R63). -/
theorem resolveDirect_raises {ok : Bool} {f : Byte} {u : List Byte} {e : JobError}
    (h : resolveDirect ok f u = .raises e) : e = .unsupportedPixelDepth := by
  unfold resolveDirect at h
  split at h
  case h_1 => unfold resolveGray8 at h; split at h <;> cases h
  case h_2 => unfold resolveGray16a at h; split at h <;> cases h
  case h_3 => unfold resolveHc15 at h; split at h <;> cases h
  case h_4 => unfold resolveTc24 at h; split at h <;> cases h
  case h_5 => unfold resolveTc32 at h; split at h <;> cases h
  all_goals cases h; rfl

/-- A palette lookup raises by its range or by its entry's selector (R72, R73). -/
theorem paletteEntry_raises {s : State} {k : Nat} {e : JobError} (h : paletteEntry s k = .raises e) :
    e = .paletteRange ∨ e = .unsupportedPixelDepth := by
  unfold paletteEntry at h
  split at h
  · cases h
    exact .inl rfl
  · exact .inr (resolveDirect_raises h)

/-- An indexed format resolves its unit to a palette entry, or finds it of the wrong length (R70, R71). -/
theorem resolvedBy_indexed {g : Bool} {i : Instr} (hi : i ∈ [Instr.index8 g, .index16 g]) (s : State) :
    (∃ k, resolvedBy i s = paletteEntry s k) ∨ ∃ n, resolvedBy i s = .badUnit n := by
  simp only [List.mem_cons, List.not_mem_nil, or_false] at hi
  rcases hi with rfl | rfl
  · simp only [resolvedBy]
    unfold resolveIndex8
    split
    · exact .inl ⟨_, rfl⟩
    · exact .inr ⟨_, rfl⟩
  · simp only [resolvedBy]
    unfold resolveIndex16
    split
    · exact .inl ⟨_, rfl⟩
    · exact .inr ⟨_, rfl⟩

/-- An indexed format raises PaletteRangeError or UnsupportedPixelDepth only. -/
theorem resolvedBy_indexed_raises {g : Bool} {i : Instr} {s : State} {e : JobError}
    (hi : i ∈ [Instr.index8 g, .index16 g]) (he : resolvedBy i s = .raises e) :
    e = .paletteRange ∨ e = .unsupportedPixelDepth := by
  rcases resolvedBy_indexed hi s with ⟨k, hk⟩ | ⟨n, hn⟩
  · exact paletteEntry_raises (hk.symm.trans he)
  · cases hn.symm.trans he

/-- The indexed formats are operations of selectors (R51). -/
theorem decodeFsel_of_indexed {g : Bool} {i : Instr} (hi : i ∈ [Instr.index8 g, .index16 g]) :
    ∃ f, decodeFsel f = .ok i := by
  simp only [List.mem_cons, List.not_mem_nil, or_false] at hi
  rcases hi with rfl | rfl
  · exact ⟨_, decodeFsel_index8 g⟩
  · exact ⟨_, decodeFsel_index16 g⟩

/-- Settles O29: both states resolve the unit alike, and the answer is what it resolves to. -/
theorem sameUnitSameQuad : Obligations.SameUnitSameQuad := by
  intro g s s' hu hsrc hlen hj i hi t ht
  obtain ⟨f, hf⟩ := decodeFsel_of_indexed hi
  have hsame : resolvedBy i s' = resolvedBy i s := resolvedBy_congr i hu.symm hj.symm fun k =>
    paletteEntry_congr k hj.symm hlen.symm fun _ _ _ => srcByte_congr hsrc.symm _
  rw [exec_format hf] at ht
  rw [exec_format hf, hsame]
  rcases emit_cases s (resolvedBy i s) with ⟨q, hq, he⟩ | ⟨e, hr, he⟩ | ⟨n, -, he⟩ <;> cases he.symm.trans ht
  · rw [hq]
    exact ⟨_, rfl, .inr (.inr ⟨q, pixelWritten_emit s q, pixelWritten_emit s' q⟩)⟩
  · rw [hr]
    rcases resolvedBy_indexed_raises hi hr with rfl | rfl
    · exact ⟨_, rfl, .inl ⟨rfl, rfl⟩⟩
    · exact ⟨_, rfl, .inr (.inl ⟨rfl, rfl⟩)⟩

/-! ### The step at a pixel -/

/-- At a pixel the turn latches its unit and runs the operation that FSEL_IMG selects (R63, R75). -/
theorem engineTurn_pixel {s : State} {i : Instr} (hb : s.status = .busy) (hp : s.phase = .resolve)
    (hr : s.destRow < s.height) (hx : s.x < s.width) (hi : decodeFsel s.job.fselImg = .ok i) :
    engineTurn s = exec i s.latchUnit := by
  rw [engineTurn_resolve hb hp, turnResolve_pixel ⟨hr, hx⟩ hi, exec_format hi]

/-- Settles O10: the step is the turn at the pixel over the engine's view. -/
theorem stepRunsTheSelector : Obligations.StepRunsTheSelector := by
  intro s i hturn hb hp hr hx hi
  rw [step_engine hturn, engineView_eq]
  exact engineTurn_pixel (s := { s with hostQueue := s.engineView.hostQueue }) hb hp hr hx hi

/-! ### The order of the rows -/

/-- TTB is bit 5 of DESCRIPTOR, which is bit 29 of FORMAT (R19). -/
theorem topToBottom_iff (s : State) : s.topToBottom = true ↔ s.format.toNat / 2 ^ 29 % 2 = 1 := by
  simp [State.topToBottom, State.descriptor, BitVec.getLsbD, Nat.testBit_eq_decide_div_mod_eq]

/-- Turning the rows round twice gives every row back (R74). -/
theorem srcRow_srcRow {s : State} {r : Nat} (hr : r < s.height) : s.srcRow (s.srcRow r) = r := by
  simp only [State.srcRow]
  split <;> omega

/-- Settles O30: TTB alone chooses the order, and the unit's place is its own definition. -/
theorem rowOrderIsItsOwnInverse : Obligations.RowOrderIsItsOwnInverse := by
  intro s r hr
  refine ⟨?_, srcRow_lt hr, srcRow_srcRow hr, fun c => rfl⟩
  simp only [State.srcRow, topToBottom_iff]

end Sys2Proof.Machine
end

section
/-! Job control: START (R77), LoadRaw (R81), the image of no pixels (R79), and that the engine's turn always answers and
brings every job nearer to its end (R83). -/

namespace Sys2Proof.Machine

/-! ### START -/

/-- A START with bit 0 clear, or while BUSY, does nothing (R13, R77). -/
theorem exec_start_ignored {v : Word} {s : State} (h : v[0] = false ∨ s.status = .busy) :
    exec (.start v) s = .next s := by
  show execStart v s = _
  unfold execStart
  rcases h with hv | hb
  · rw [if_pos hv]
  · rw [if_pos hb, ite_self]

/-- Any other START begins a job (R77). -/
theorem exec_start_begins {v : Word} {s : State} (hv : v[0] = true) (hb : s.status ≠ .busy) :
    exec (.start v) s = .next s.beginJob := by
  show execStart v s = _
  rw [execStart, if_neg (by simp [hv]), if_neg hb]

/-- A configuration that fails a check ends its job in the turn of CheckConfig (R79). -/
theorem engineTurn_checkConfig_fails {s : State} {e : JobError} (hb : s.status = .busy) (hp : s.phase = .checkConfig)
    (h : checkConfig s = some e) : engineTurn s = .next (s.raise e) := by
  rw [engineTurn_checkConfig hb hp, stepCheckConfig, h]

/-- IMAGE_TYPE 0 is no type of R79, so the registers of reset fail the second check. -/
theorem checkConfig_beginJob_resetWith (c : Capacities) :
    checkConfig (State.resetWith c).beginJob = some .unsupportedImageType := by
  have hmap : (State.resetWith c).beginJob.colorMapType = 0 := by simp [State.colorMapType, State.resetWith]
  have htype : (State.resetWith c).beginJob.imageType = 0 := by simp [State.imageType, State.resetWith]
  rw [checkConfig, if_neg (by simp [hmap]), if_pos (by simp [htype])]

/-- Settles O11: `beginJob` is the state that R77 lists, and straight after reset CheckConfig refuses IMAGE_TYPE 0. -/
theorem startBeginsAJob : Obligations.StartBeginsAJob := by
  refine ⟨fun v s h => exec_start_ignored h, fun v s hv hb => ?_, fun c v hv => ?_⟩
  · exact ⟨_, exec_start_begins hv hb, rfl, fun a => dstByte_eq_none a (.inl (by simp))⟩
  · refine ⟨_, _, exec_start_begins hv (by simp [State.resetWith]),
      engineTurn_checkConfig_fails rfl rfl (checkConfig_beginJob_resetWith c), ?_⟩
    have hended := raise_endedWith (State.resetWith c).beginJob .unsupportedImageType rfl
    rw [endedWith] at hended
    rw [hended]
    exact ⟨rfl, rfl⟩

/-! ### LoadRaw -/

/-- A region of fewer than N bytes is ShortRawData (R90). -/
theorem stepLoadRaw_short {s : State} (h : s.dataEnd.toNat - s.job.dataStart < s.job.expected) :
    stepLoadRaw s = s.raise .shortRawData := if_pos h

/-- A region of N bytes or more fills RAW, and the walk begins (R81). -/
theorem stepLoadRaw_fits {s : State} (h : s.job.expected ≤ s.dataEnd.toNat - s.job.dataStart) :
    stepLoadRaw s = { s with raw := s.srcBytes s.job.dataStart s.job.expected }.beginResolve :=
  if_neg (Nat.not_lt.2 h)

/-- Settles O34: with DATA_START at or before DATA_END the region's length is their difference. -/
theorem loadRawTakesTheFirstBytes : Obligations.LoadRawTakesTheFirstBytes := by
  intro s hb hp hund hstart
  rw [engineTurn_loadRaw hb hp]
  refine ⟨fun hshort => ?_, fun hfits => ?_⟩
  · rw [stepLoadRaw_short (by omega)]
    exact ⟨_, rfl, raise_endedWith s _ hund⟩
  · rw [stepLoadRaw_fits (by omega)]
    exact ⟨_, rfl, rfl, srcBytes_length .., fun a ha => srcBytes_getElem? s _ _ a ha⟩

/-! ### The image of no pixels -/

/-- The reference decoder with nothing to produce takes no packet (R55). -/
theorem refDecodeRle_of_expected_zero {s : State} {j : JobParams} (h : j.expected = 0) (fuel rd : Nat) :
    refDecodeRle s j (fuel + 1) rd [] = .ok [] := by
  rw [refDecodeRle, h, if_pos (Nat.zero_le _)]

/-- The reference LoadRaw of no bytes is never short (R81). -/
theorem refLoadRaw_of_expected_zero {s : State} {j : JobParams} (h : j.expected = 0) : refLoadRaw s j = .ok [] := by
  rw [refLoadRaw, h, if_neg (Nat.not_lt_zero _)]
  rfl

/-- An image of no pixels has none to walk over (R75). -/
theorem pixelOrder_eq_nil {w h : Nat} (ha : w * h = 0) : pixelOrder w h = [] :=
  List.eq_nil_of_length_eq_zero ((pixelOrder_length w h).trans ha)

/-- Settles O55: N is 0, so RAW is empty either way, and the walk has no pixel. -/
theorem zeroSizedImagesAreEmpty : Obligations.ZeroSizedImagesAreEmpty := by
  intro s hc hzero
  have harea : s.width * s.height = 0 := Nat.mul_eq_zero.2 hzero
  have hN : s.deriveJob.expected = 0 := by
    show s.width * s.height * _ = 0
    rw [harea, Nat.zero_mul]
  rw [refJob_of_passes hc, refDecodeRle_of_expected_zero hN, refLoadRaw_of_expected_zero hN, ite_self, refAfterRaw,
    pixelOrder_eq_nil harea, refResolve]

/-! ### The engine always answers -/

/-- A turn of the packet loop answers a next state from every state. -/
theorem turnRle_answers (s : State) : ∃ t, turnRle s = .next t := by
  rcases turnRle_cases s with ⟨-, he⟩ | ⟨-, -, he⟩ | ⟨-, -, -, he⟩ | ⟨-, -, -, -, he⟩
  all_goals exact ⟨_, he⟩

/-- THE ENGINE'S TURN answers a next state: the one stop it could make, a unit that is not of P bytes, the invariant
shuts out. -/
theorem engineTurn_answers {s : State} (h : s.Inv) : ∃ t, engineTurn s = .next t := by
  by_cases hb : s.status = .busy
  swap
  · exact ⟨s, engineTurn_not_busy hb⟩
  cases hp : s.phase with
  | noJob => exact absurd hp (h.busyPhase.1 hb)
  | checkConfig => exact ⟨_, engineTurn_checkConfig hb hp⟩
  | derive => exact ⟨_, engineTurn_derive hb hp⟩
  | rle => exact engineTurn_rle hb hp ▸ turnRle_answers s
  | loadRaw => exact ⟨_, engineTurn_loadRaw hb hp⟩
  | resolve =>
    have hok := h.phaseOk
    simp only [State.phaseInv, hp] at hok
    obtain ⟨hc, ho, -⟩ := hok
    by_cases hin : s.destRow < s.height ∧ s.x < s.width
    · rcases resolve_turn hb hp hc ho hin.1 hin.2 with ⟨q, -, ht⟩ | ⟨-, ht⟩
      all_goals exact ⟨_, ht⟩
    · exact ⟨_, (engineTurn_resolve hb hp).trans (turnResolve_past hin)⟩
  | complete => exact ⟨_, engineTurn_complete hb hp⟩

/-- Settles O52: in the engine's turn the step is `engineTurn`, over a state with the host's event taken. -/
theorem theEngineNeverStops : Obligations.TheEngineNeverStops := by
  intro s h hturn
  rw [step_engine hturn, engineView_eq]
  exact engineTurn_answers (inv_hostQueue h _)

/-! ### Every job ends -/

/-- A bound on the turns that the job in `s` has still to take, phase by phase of R78: a packet produces at least a byte
of the N, a turn of ResolveImage writes one pixel, and every other phase takes one turn. -/
def State.turnsLeft (s : State) : Nat :=
  match s.phase with
  | .noJob => 0
  | .checkConfig => 5 + s.width * s.height + s.deriveJob.expected
  | .derive => 4 + s.width * s.height + s.deriveJob.expected
  | .rle => 3 + s.width * s.height + (s.job.expected - s.out)
  | .loadRaw => 3 + s.width * s.height
  | .resolve => 2 + s.pixelsLeft.length
  | .complete => 1

theorem turnsLeft_beginResolve (s : State) : s.beginResolve.turnsLeft = 2 + s.width * s.height := by
  show 2 + s.beginResolve.pixelsLeft.length = _
  rw [pixelsLeft_beginResolve, pixelOrder_length]

theorem turnsLeft_stepDerive_le (s : State) :
    (stepDerive s).turnsLeft ≤ 3 + s.width * s.height + s.deriveJob.expected := by
  unfold State.turnsLeft
  rw [stepDerive_phase]
  cases s.isRle with
  | true => exact Nat.le_refl _
  | false => exact Nat.le_add_right _ _

theorem turnsLeft_endJob (s : State) (r : Option JobError) : (s.endJob r).turnsLeft = 0 := by
  rw [State.turnsLeft, endJob_phase]

theorem turnsLeft_pos {s : State} (h : s.phase ≠ .noJob) : 0 < s.turnsLeft := by
  unfold State.turnsLeft
  split
  case h_1 hp => exact absurd hp h
  all_goals omega

/-- A packet brings RAW nearer to N, since its count and P are at least 1 (R48, R60). -/
theorem turnsLeft_packet_lt {s : State} {cb : Byte} {n : Nat} {bs : List Byte} (hp : s.phase = .rle)
    (hc : s.configured) (hmore : s.out < s.job.expected) (hlen : bs.length = packetCount cb * s.job.unitSize) :
    (s.takeControl.produce n bs).turnsLeft < s.turnsLeft := by
  have hgrow : 0 < packetCount cb * s.job.unitSize :=
    Nat.mul_pos (packetCount_range cb).1 (unitSize_range hc).1
  have hafter : (s.takeControl.produce n bs).turnsLeft
      = 3 + s.width * s.height + (s.job.expected - (s.out + bs.length)) := by
    rw [State.turnsLeft, produce_phase, takeControl_phase, hp]
    simp only [produce_out]
    rfl
  rw [hafter]
  simp only [State.turnsLeft, hp]
  omega

/-- Writing a pixel leaves one fewer to write (R75). -/
theorem turnsLeft_nextPixel_lt {s : State} (q : Rgba) (hp : s.phase = .resolve) (hr : s.destRow < s.height)
    (hx : s.x < s.width) : (s.latchUnit.writePixel q).nextPixel.turnsLeft < s.turnsLeft := by
  have hleft : s.pixelsLeft = _ :: (s.latchUnit.writePixel q).nextPixel.pixelsLeft :=
    pixelsLeft_of_inside (s := s.latchUnit.writePixel q) hr hx
  simp only [State.turnsLeft, nextPixel_phase, writePixel_phase, latchUnit_phase, hp, hleft, List.length_cons]
  omega

/-- EVERY TURN of a running job leaves fewer turns to take (R83). -/
theorem turnsLeft_engineTurn_lt {s t : State} (h : s.Inv) (hb : s.status = .busy) (ht : engineTurn s = .next t) :
    t.turnsLeft < s.turnsLeft := by
  rcases turn_cases hb ht with ⟨hp, -⟩ | ⟨hp, r, s', rfl, -⟩ | ⟨hp, -, rfl⟩ | ⟨hp, rfl⟩ | ⟨hp, -, rfl⟩
    | ⟨hp, hmore, -, -, -, rfl⟩ | ⟨hp, -, rfl⟩ | ⟨hp, hr, hx, i, q, -, -, rfl⟩ | ⟨hp, -, rfl⟩
  · exact absurd hp (h.busyPhase.1 hb)
  · rw [turnsLeft_endJob]
    exact turnsLeft_pos hp
  · simp only [State.turnsLeft, hp]
    exact Nat.add_lt_add_right (Nat.add_lt_add_right (by decide) _) _
  · refine Nat.lt_of_le_of_lt (turnsLeft_stepDerive_le s) ?_
    simp only [State.turnsLeft, hp]
    omega
  · rw [turnsLeft_beginResolve]
    simp only [State.turnsLeft, hp]
    omega
  · exact turnsLeft_packet_lt hp (h.rle_bounds hp).1 hmore (packetBytes_length ..)
  · rw [turnsLeft_beginResolve]
    simp only [State.turnsLeft, hp]
    exact Nat.add_lt_add_right (by decide) _
  · exact turnsLeft_nextPixel_lt q hp hr hx
  · simp only [State.turnsLeft, hp]
    omega

/-- From a BUSY state that meets the invariant, with the host waiting or polling, a run reaches the end of the job with
the host's list untouched. -/
theorem reaches_end {s : State} (h : s.Inv) (hb : s.status = .busy) (hq : hostWaits s.hostQueue) :
    ∃ t, Reaches s t ∧ (t.status = .done ∨ t.status = .error) ∧ t.hostQueue = s.hostQueue := by
  obtain ⟨u, hu⟩ := engineTurn_answers h
  have hstep : step s = .next u := (step_waiting hb hq).trans hu
  obtain ⟨-, -, -, hqueue, -, -, -, ⟨hstays, -⟩ | ⟨-, -, hends⟩⟩ := engineTurn_frame hu
  · have hless := turnsLeft_engineTurn_lt h hb hu
    obtain ⟨t, hreach, hend, hqueue'⟩ :=
      reaches_end (everyStepKeepsTheInvariant s u h hstep) (hstays.trans hb) (hqueue ▸ hq)
    exact ⟨t, hreach.head hstep, hend, hqueue'.trans hqueue⟩
  · exact ⟨u, (Reaches.refl u).head hstep, hends.imp And.left And.left, hqueue⟩
termination_by s.turnsLeft

/-- Settles O53, by induction on the bound `State.turnsLeft`. -/
theorem everyJobEnds : Obligations.EveryJobEnds := by
  intro s h hb hq
  obtain ⟨t, ⟨n, hn⟩, hend, hqueue⟩ := reaches_end h hb hq
  exact ⟨n, t, hn, hend, hqueue⟩

end Sys2Proof.Machine
end

section
/-! The checks of CheckConfig, each with the configurations it refuses (R79), and the error entry (R84, R85). -/

namespace Sys2Proof.Machine

/-! ### The checks, in their order -/

section
variable {s : State}

/-- Check 1 of R79 comes first (R86). -/
theorem checkConfig_mapType (hmap : ¬ (s.colorMapType = 0 ∨ s.colorMapType = 1)) :
    checkConfig s = some .unsupportedColorMapType := if_pos hmap

/-- The image types of check 2 (R89). -/
theorem imageType_supported_iff : [1, 2, 3, 9, 10, 11].contains s.imageType = true ↔
    s.imageType = 1 ∨ s.imageType = 2 ∨ s.imageType = 3 ∨ s.imageType = 9 ∨ s.imageType = 10
      ∨ s.imageType = 11 := by
  simp

variable (hmap : s.colorMapType = 0 ∨ s.colorMapType = 1)
include hmap

/-- Check 2 of R79 is the first to fail (R89). -/
theorem checkConfig_imageType (htype : ¬ [1, 2, 3, 9, 10, 11].contains s.imageType = true) :
    checkConfig s = some .unsupportedImageType := by
  rw [checkConfig, if_neg (not_not_intro hmap), if_pos htype]

variable (htype : [1, 2, 3, 9, 10, 11].contains s.imageType = true)
include htype

/-- Check 3 of R79 is the first to fail (R87). -/
theorem checkConfig_depth (hdepth : ¬ depthSupported s = true) : checkConfig s = some .unsupportedPixelDepth := by
  rw [checkConfig, if_neg (not_not_intro hmap), if_neg (not_not_intro htype), if_pos hdepth]

/-- When checks 1 to 3 of R79 pass, the sizes and the region decide (R92). -/
theorem checkConfig_range (hdepth : depthSupported s = true) :
    checkConfig s = if s.srcLen.toNat ≤ s.caps.src ∧ s.width * s.height * 4 ≤ s.caps.dst
        ∧ s.dataStartOf ≤ s.dataEnd.toNat ∧ s.dataEnd.toNat ≤ s.srcLen.toNat
      then none else some .configRange := by
  rw [checkConfig, if_neg (not_not_intro hmap), if_neg (not_not_intro htype), if_neg (not_not_intro hdepth)]
  split
  next hbad => exact (if_neg (by omega)).symm
  next hok => exact (if_pos (by omega)).symm

end

/-- The supported depths, for an image with a colour map and for one without (R87). -/
theorem depthSupported_iff (s : State) : depthSupported s = true ↔
    (s.colorMapType = 1 ∧ (s.pixelDepth = 8 ∨ s.pixelDepth = 16)
      ∧ (s.cmEntryDepth = 8 ∨ s.cmEntryDepth = 15 ∨ s.cmEntryDepth = 16 ∨ s.cmEntryDepth = 24 ∨ s.cmEntryDepth = 32))
    ∨ (s.colorMapType ≠ 1 ∧ (s.pixelDepth = 8 ∨ s.pixelDepth = 15 ∨ s.pixelDepth = 16 ∨ s.pixelDepth = 24
      ∨ s.pixelDepth = 32)) := by
  unfold depthSupported State.indexed
  by_cases hmap : s.colorMapType = 1 <;> simp [hmap]

/-- DATA_START with the colour map's length written out (R38). -/
theorem dataStartOf_eq (s : State) : s.dataStartOf
    = 18 + s.idLength + (if s.colorMapType = 1 then s.cmLength * ((s.cmEntryDepth + 7) / 8) else 0) := by
  simp [State.dataStartOf, State.indexed, bytesOfBits]

/-! ### The turn of CheckConfig -/

/-- A check that fails ends an undisturbed job with its code (R79, R84). -/
theorem stepCheckConfig_endedWith {s : State} {e : JobError} (hund : s.srcDisturbed = false)
    (h : checkConfig s = some e) : endedWith s e (stepCheckConfig s) := by
  rw [stepCheckConfig, h]
  exact raise_endedWith s e hund

/-- When all checks pass the job goes on to Derive (R78). -/
theorem stepCheckConfig_passes {s : State} (h : checkConfig s = none) :
    stepCheckConfig s = { s with phase := .derive } := by
  rw [stepCheckConfig, h]

/-- Settles O32: the first check that fails gives the code of the turn. -/
theorem checkConfigOrder : Obligations.CheckConfigOrder := by
  intro s hb hp hund
  dsimp only
  rw [← depthSupported_iff, ← imageType_supported_iff, ← dataStartOf_eq]
  refine ⟨stepCheckConfig s, engineTurn_checkConfig hb hp, fun hmap => ?_, fun hmap htype => ?_,
    fun hmap htype hdepth => ?_, fun hmap htype hdepth hrange => ?_, fun hmap htype hdepth hrange => ?_⟩
  · exact stepCheckConfig_endedWith hund (checkConfig_mapType hmap)
  · exact stepCheckConfig_endedWith hund (checkConfig_imageType hmap htype)
  · exact stepCheckConfig_endedWith hund (checkConfig_depth hmap htype hdepth)
  · exact stepCheckConfig_endedWith hund ((checkConfig_range hmap htype hdepth).trans (if_neg hrange))
  · exact stepCheckConfig_passes ((checkConfig_range hmap htype hdepth).trans (if_pos hrange))

/-! ### The error entry -/

/-- The engine does nothing in the state an error leaves (R84). -/
theorem engineTurn_of_endedWith {s t : State} {e : JobError} (h : endedWith s e t) : engineTurn t = .next t := by
  rw [endedWith] at h
  exact engineTurn_not_busy (by simp [h])

/-- Settles O35: an undisturbed `raise` is `endedWith`, which leaves the engine at rest and DST open; the codes are the
table's. -/
theorem errorEntryReportsTheCode : Obligations.ErrorEntryReportsTheCode := by
  refine ⟨fun s e hund => ?_, rfl, rfl, rfl, rfl, rfl, rfl, rfl⟩
  have hended := raise_endedWith s e hund
  exact ⟨hended, engineTurn_of_endedWith hended, endedWith_dstByte hended⟩

end Sys2Proof.Machine
end

section
/-! Reset (R98, R99), and the host's register writes that a running job drops (R101, R102). -/

namespace Sys2Proof.Machine

/-! ### Register writes while BUSY -/

/-- While BUSY a register write does nothing: at CTRL the START is ignored (R102), at every other offset the write is
dropped (R101). -/
theorem hostRegWrite_busy {s : State} (off : Nat) (v : Word) (hb : s.status = .busy) :
    hostRegWrite off v s = .next s := by
  by_cases h0 : off = 0x00
  · rw [hostRegWrite, if_pos h0, decodeStart_eq]
    cases v[0] with
    | true => exact exec_start_ignored (.inr hb)
    | false => rfl
  · rw [hostRegWrite, if_neg h0, writeReg_busy s off v hb]

/-- Settles O42: the access goes through to a write that a BUSY engine drops. -/
theorem registerWritesWhileBusyAreDropped : Obligations.RegisterWritesWhileBusyAreDropped := by
  intro s off v q hb hal hlt hq
  rw [step_regWrite_eq hq, regAccess_inside _ hal hlt]
  exact hostRegWrite_busy (s := { s with hostQueue := q }) off v hb

/-! ### Reset -/

theorem step_reset_eq {s : State} {q : List HostEvent} (hq : s.hostQueue = .reset :: q) :
    step s = .next (State.hostReset { s with hostQueue := q }) := by
  simp only [step, hq]
  rfl

/-- After reset STATE = IDLE (R98). -/
@[simp] theorem resetWith_status (c : Capacities) : (State.resetWith c).status = .idle := rfl

/-- The registers do not see what a reset keeps, so they read as in the reset state (R98). -/
theorem readReg_hostReset (s : State) (off : Nat) : s.hostReset.readReg off = 0 := readReg_resetWith s.caps off

/-- Settles O44: the step is `hostReset`, which leaves the engine IDLE; the engine then has nothing to do and no DST byte
is defined. -/
theorem resetGivesTheResetTable : Obligations.ResetGivesTheResetTable := by
  intro s q hq
  refine ⟨_, step_reset_eq hq, rfl, rfl, readReg_hostReset _, rfl, fun a => srcByte_congr rfl a,
    fun a => dstByte_eq_none a (.inl ?_), rfl, rfl, engineTurn_not_busy ?_⟩
  all_goals simp

/-! ### The invariant after reset -/

/-- The reset state holds no memory byte, no error and no job, so every clause but the capacities' is immediate. -/
theorem inv_resetWith {c : Capacities} (hc : c.legal) : (State.resetWith c).Inv where
  srcWf := Memory.wf_nil
  dstWf := Memory.wf_nil
  srcInside := fun _ hmem => nomatch hmem
  capsLegal := hc
  errZero := iff_of_true rfl nofun
  errRange := Nat.zero_le _
  busyPhase := iff_of_false nofun fun hphase => hphase rfl
  outLenOk := nofun
  phaseOk := fun hdone => nomatch hdone

/-- Settles O50: the model's own capacities are legal. -/
theorem resetMeetsTheInvariant : Obligations.ResetMeetsTheInvariant :=
  ⟨fun _ hc => inv_resetWith hc, inv_resetWith (by decide)⟩

end Sys2Proof.Machine
end

section
/-! Units of the wrong length (R63, assumption 14), and the host's SRC reads (R29, assumption 2). -/

namespace Sys2Proof.Machine

/-! ### Units of the wrong length -/

/-- SIZE is the low three bits of a selector (R51). -/
theorem fselWord_size (idx gray : Bool) (n : Nat) : (fselWord idx gray n).toNat % 8 = n % 8 := by
  rw [fselWord_toNat]
  omega

/-- An operation resolves no unit but one of its selector's SIZE (R63). -/
theorem resolvedBy_wrongLength {f : Byte} {i : Instr} {s : State} (hi : decodeFsel f = .ok i)
    (hlen : s.unit.length ≠ f.toNat % 8) : resolvedBy i s = .badUnit s.unit.length := by
  have hf := encode_of_decodeFsel hi
  rcases decodeFsel_format hi with ⟨g, rfl⟩ | rfl | rfl | ⟨g, rfl⟩ | ⟨g, rfl⟩ | ⟨g, rfl⟩ | ⟨g, rfl⟩
  all_goals
    cases hf
    rw [fselWord_size] at hlen
    simp only [resolvedBy, resolveGray8, resolveGray16a, resolveHc15, resolveTc24, resolveTc32, resolveIndex8,
      resolveIndex16]
    split
    next hunit => exact absurd (congrArg List.length hunit) hlen
    next => rfl

/-- So the operation stops, the selector given by its fields. -/
theorem exec_wrongLength {idx gray : Bool} {n : Nat} {i : Instr} {s : State}
    (hi : decodeFsel (fselWord idx gray n) = .ok i) (hlen : s.unit.length ≠ n % 8) :
    exec i s = .fault (.unitLength s.unit.length) := by
  rw [← fselWord_size idx gray n] at hlen
  rw [exec_format hi, resolvedBy_wrongLength hi hlen]
  rfl

/-- Settles O26, by the SIZE in each operation's selector. -/
theorem unitsOfTheWrongLengthFault : Obligations.UnitsOfTheWrongLengthFault := by
  intro g s
  refine ⟨fun h1 => ⟨?_, ?_⟩, fun h2 => ⟨?_, ?_, ?_⟩, fun h3 => ?_, fun h4 => ?_⟩
  · exact exec_wrongLength (decodeFsel_gray8 g) h1
  · exact exec_wrongLength (decodeFsel_index8 g) h1
  · exact exec_wrongLength decodeFsel_gray16a h2
  · exact exec_wrongLength decodeFsel_hc15 h2
  · exact exec_wrongLength (decodeFsel_index16 g) h2
  · exact exec_wrongLength (decodeFsel_tc24 g) h3
  · exact exec_wrongLength (decodeFsel_tc32 g) h4

/-! ### SRC reads -/

/-- Outside BUSY a read inside SRC returns its byte (R29). -/
theorem hostSrcRead_not_busy {s : State} {a : Nat} (ha : a < s.caps.src) (hb : s.status ≠ .busy) :
    hostSrcRead a s = .next (s.answerHost ((s.srcByte a).setWidth 32)) := by
  rw [hostSrcRead, if_neg (Nat.not_le.2 ha), if_neg hb]

/-- While BUSY it returns a free value (assumption 2). -/
theorem hostSrcRead_busy {s : State} {a : Nat} (ha : a < s.caps.src) (hb : s.status = .busy) :
    hostSrcRead a s = .next s.answerFree := by
  rw [hostSrcRead, if_neg (Nat.not_le.2 ha), if_pos hb]

/-- Settles O47: the step is the read, which answers by STATE. -/
theorem srcReadsReturnTheByte : Obligations.SrcReadsReturnTheByte := by
  intro s a q hq ha
  rw [step_srcRead_eq hq]
  exact ⟨hostSrcRead_not_busy (s := { s with hostQueue := q }) ha,
    hostSrcRead_busy (s := { s with hostQueue := q }) ha⟩

end Sys2Proof.Machine
end
